-- ==== Sys2Proof/Word.lean ====
section
/-! DEFINITION. The two word types of the ports and their widths (spec/00_scope.md R10, R11). -/

namespace Sys2Proof

/-- `W`, the data word width, "a fixed-width (128-bit) ordered bit vector" (R10). -/
def wordWidth : Nat := 128

/-- A data word (FixedWord): bit 127 is the most significant (R10). -/
abbrev Word := BitVec 128

/-- `CFG_W`, the configuration word: "47-bit fixed layout" (R11). -/
abbrev CfgWord := BitVec 47

end Sys2Proof
end

