-- ==== Sys2Proof/Syntax.lean ====
section
/-! DEFINITION. The operations of the block (one constructor per row of spec/opcode_table.json) and the data types its
registers, ports and functions are made of. -/

namespace Sys2Proof

/-- The operation the controller performs on a tick: one constructor per row of the operation map (R81); BAD_STATE has
two rows. No operation has an operand in the selector: the letters of a pattern are bits the row does not examine, and the
data an operation uses (`cfg_data`, `in_data`) comes from the ports (R80, R104 to R270 "Operands"). -/
inductive Instr where
  /-- RESET, `1sssciolk` (R270). -/
  | reset
  /-- IDLE_ADVANCE, `0000ciolk` (R208). -/
  | idleAdvance
  /-- CFG_HOLD, `00010iolk` (R104). -/
  | cfgHold
  /-- CFG_ACCEPT, `00011iolk` (R105). -/
  | cfgAccept
  /-- RX_HOLD, `0010c0olk` (R126). -/
  | rxHold
  /-- RX_ACCEPT, `0010c1o0k` (R127). -/
  | rxAccept
  /-- RX_ACCEPT_FILL, `0010c1o1k` (R128). -/
  | rxAcceptFill
  /-- PROC_WAIT, `0011cio0k` (R210). -/
  | procWait
  /-- PROC_ERROR, `0011cio10` (R211). -/
  | procError
  /-- PROC_DONE, `0011cio11` (R212). -/
  | procDone
  /-- TX_HOLD, `0100ci0lk` (R185). -/
  | txHold
  /-- TX_WORD, `0100ci10k` (R186). -/
  | txWord
  /-- TX_LAST, `0100ci11k` (R187). -/
  | txLast
  /-- BAD_STATE, first row `0101ciolk`: state code 101 (R215). -/
  | badState101
  /-- BAD_STATE, second row `011sciolk`: state codes 110 and 111 (R215). -/
  | badState11x
  deriving DecidableEq, Repr

/-- RateMatchConfig, the contents of the `cfg` register: six fields of the declared widths (R23, R71). -/
structure RateMatchConfig where
  inlen   : BitVec 16
  outlen  : BitVec 16
  rv      : BitVec 2
  nlayers : BitVec 3
  qm      : BitVec 4
  nref    : BitVec 6
  deriving DecidableEq, Repr, Inhabited

/-- A configuration as the upstream producer holds it, before it is packed: six naturals, which may not fit (R103). -/
structure RawConfig where
  inlen   : Nat
  outlen  : Nat
  rv      : Nat
  nlayers : Nat
  qm      : Nat
  nref    : Nat
  deriving DecidableEq, Repr

/-- The element type of the algorithm's input: "model explicitly as a tri-state bit type" (R149). -/
inductive TriBit where
  | zero
  | one
  /-- The sentinel that bit selection skips (R149, R150). -/
  | filler
  deriving DecidableEq, Repr

/-- The base graph `bgn` (R142). -/
inductive BaseGraph where
  | bg1
  | bg2
  deriving DecidableEq, Repr

/-- The four error kinds (R240); `NONE` is the absence of one. -/
inductive ErrorKind where
  | configError
  | invalidParameter
  | insufficientData
  | decodeError
  deriving DecidableEq, Repr

/-- The result of `RateMatch`: a sequence over 0 and 1, an error kind, or no result at all (R155, R151). -/
inductive RateMatchResult where
  | sequence (f : List Bool)
  | error (kind : ErrorKind)
  /-- `STUCK(AllFiller)`: the evaluation never ends (R151). -/
  | stuck
  deriving DecidableEq, Repr

/-- `E_MODE`: which form of the output length is used (R15, R147). -/
inductive EMode where
  | floor
  | literal
  | modEquiv
  deriving DecidableEq, Repr, Inhabited

/-- The input ports as sampled on one tick (R33, R34). -/
structure Pins where
  rst      : Bool
  cfgValid : Bool
  cfgData  : CfgWord
  inValid  : Bool
  inData   : Word
  /-- `in_last`, never read (R124); the port exists when `HAS_IN_LAST` (R16). -/
  inLast   : Bool
  outReady : Bool
  deriving DecidableEq, Repr, Inhabited

/-- One output transfer as the consumer receives it (R77): the word and, when `HAS_OUT_LAST`, the end marker. -/
structure Emission where
  data : Word
  last : Option Bool
  deriving DecidableEq, Repr

end Sys2Proof
end

