-- ==== Sys2Proof/Config.lean ====
section
/-! DEFINITION. What an implementation fixes when the block is built (spec/00_scope.md §4, R281) and the free values: what
the spec leaves open and the machine goes on with (spec/93_implementation_defined.md). A free value is an opaque constant, so
that no proof can use what it is. -/

namespace Sys2Proof

/-- The build parameters (R12 to R17): "fixed when the block is built; no port or operation changes them" (R281). State holds
them as a constant field, so that a statement about every state is a statement about every build. -/
structure Params where
  /-- `MAX_WORDS`, the input queue capacity; `TRIGGER` equals it (R12, R13). -/
  maxWords   : Nat
  /-- `PROC_TICKS`, the ticks spent in `PROCESSING` (R14). -/
  procTicks  : Nat
  /-- `E_MODE` (R15). -/
  eMode      : EMode
  /-- `HAS_IN_LAST` (R16). -/
  hasInLast  : Bool
  /-- `HAS_OUT_LAST` (R16). -/
  hasOutLast : Bool
  /-- `RES_WORDS`, the result store's capacity (R17). -/
  resWords   : Nat
  deriving DecidableEq, Repr

/-- The spec's defaults (R12, R14, R15, R16); `RES_WORDS` has none and is 513 here, which R17 allows under every `E_MODE`
(DESIGN CHOICE, safe: log entry 2). -/
def Params.default : Params :=
  { maxWords := 11, procTicks := 1, eMode := .floor, hasInLast := true, hasOutLast := true, resWords := 513 }

/-- `ceil(E_MAX / 128)`, the least capacity R17 admits under an `E_MODE`. -/
def Params.minResWords : EMode → Nat
  | .floor    => 512
  | .literal  => 513
  | .modEquiv => 513

/-- The inputs of a tick for which `script` names none: the partners are outside the model and their inputs are "free inputs
of the step" (R7). Indexed by the tick. DESIGN CHOICE, safe: log entry 4. -/
opaque Config.freePins : Nat → Pins

/-- `out_data` on a tick with `out_valid` = 0: "a model gives it a free value (a draw) on each such tick" (R203, U2).
Safe: log entry 6. -/
opaque Config.freeOutData : Nat → Word

/-- `cfg` after the RESET operation: unspecified (R37, U4). Safe: log entry 7. -/
opaque Config.freeCfg : Nat → RateMatchConfig

/-- The 3-bit `state` register at power-up: unspecified (R38, U1). Safe: log entry 18. -/
opaque Config.powerUpState : BitVec 3

/-- `cfg` at power-up: unspecified (R38, U1). -/
opaque Config.powerUpCfg : RateMatchConfig

/-- `err` at power-up: unspecified (R38, U1). -/
opaque Config.powerUpErr : BitVec 3

/-- `count` at power-up: unspecified (R38, U1). -/
opaque Config.powerUpCount : Nat

/-- `proc_cnt` at power-up: unspecified (R38, U1). -/
opaque Config.powerUpProcCnt : Nat

/-- `nwords` at power-up: unspecified (R38, U1). -/
opaque Config.powerUpNwords : Nat

/-- `idx` at power-up: unspecified (R38, U1). -/
opaque Config.powerUpIdx : Nat

/-- The words of the input queue at power-up: unspecified (R38, U1). -/
opaque Config.powerUpQueue : Nat → Word

/-- The words of the result store at power-up: unspecified (R38, U1). -/
opaque Config.powerUpResult : Nat → Word

/-- How many words past its required capacity the result store has at power-up: the store may be larger than it must, or
unbounded (R17). -/
opaque Config.powerUpSpare : Nat

end Sys2Proof
end

