-- ==== Sys2Proof/WellFormed.lean ====
section
/-! DEFINITION. The checks on data that comes from outside the step: the build parameters (R12, R14, R17), a configuration
before it is packed (R103), and a tick selector as the block itself can form it (R80). The operations have no operands, so a
term of `Instr` needs no check of its own (log entry 16). -/

namespace Sys2Proof

/-- The parameters a build may have: `1 <= MAX_WORDS` (R12), `1 <= PROC_TICKS` (R14) and `RES_WORDS` at least
`ceil(E_MAX / 128)` (R17). -/
abbrev Params.wf (p : Params) : Prop :=
  1 ≤ p.maxWords ∧ 1 ≤ p.procTicks ∧ Params.minResWords p.eMode ≤ p.resWords

/-- Every field fits its width: `inlen`, `outlen` < 2^16, `rv` < 4, `nlayers` < 8, `Qm` < 16, `Nref` < 64 (R103). -/
abbrev RawConfig.wf (c : RawConfig) : Prop :=
  c.inlen < 65536 ∧ c.outlen < 65536 ∧ c.rv < 4 ∧ c.nlayers < 8 ∧ c.qm < 16 ∧ c.nref < 64

/-- A selector the block can form (R80): `l` is 0 outside `RECEIVING` (010), `PROCESSING` (011) and `EMITTING` (100), and
`k` is 0 outside `PROCESSING`. -/
abbrev selectorFormed (S : BitVec 9) : Prop :=
  (S.getLsbD 1 = true → S.extractLsb' 5 3 = 2#3 ∨ S.extractLsb' 5 3 = 3#3 ∨ S.extractLsb' 5 3 = 4#3) ∧
  (S.getLsbD 0 = true → S.extractLsb' 5 3 = 3#3)

end Sys2Proof
end

