-- ==== Sys2Proof/Decode.lean ====
section
/-! DEFINITION. The two decoders of the block and their encoders: the tick selector (R80, R81), which plays the part of an
opcode, and the configuration word (R71, R72, R101, R103). -/

namespace Sys2Proof

/-! ### The tick selector -/

/-- Why a word is refused by the decoder: the selector is 9 bits (R80), and the word has a bit above them. -/
inductive DecodeReject where
  | selectorTooWide
  deriving DecidableEq, Repr

/-- The operation map (R81), read field by field: `rst` first (R249), then the state code S[7:5], then the bits the rows of
that state examine. Every one of the 512 selector values names one operation (R82). -/
def decodeSelector (S : BitVec 9) : Instr :=
  if S.getLsbD 8 then .reset
  else match (S.extractLsb' 5 3).toNat with
    | 0 => .idleAdvance
    | 1 => if S.getLsbD 4 then .cfgAccept else .cfgHold
    | 2 => if S.getLsbD 3 then (if S.getLsbD 1 then .rxAcceptFill else .rxAccept) else .rxHold
    | 3 => if S.getLsbD 1 then (if S.getLsbD 0 then .procDone else .procError) else .procWait
    | 4 => if S.getLsbD 2 then (if S.getLsbD 1 then .txLast else .txWord) else .txHold
    | 5 => .badState101
    | _ => .badState11x

/-- Decoding is total on numbers of any size and refuses by name one that is no 9-bit selector. -/
def decode (w : Nat) : Except DecodeReject Instr :=
  if w < 512 then .ok (decodeSelector (BitVec.ofNat 9 w)) else .error .selectorTooWide

/-- The bits a row examines (the row's `mask`, R81). -/
def rowMask : Instr → BitVec 9
  | .reset        => 0b100000000#9
  | .idleAdvance  => 0b111100000#9
  | .cfgHold      => 0b111110000#9
  | .cfgAccept    => 0b111110000#9
  | .rxHold       => 0b111101000#9
  | .rxAccept     => 0b111101010#9
  | .rxAcceptFill => 0b111101010#9
  | .procWait     => 0b111100010#9
  | .procError    => 0b111100011#9
  | .procDone     => 0b111100011#9
  | .txHold       => 0b111100100#9
  | .txWord       => 0b111100110#9
  | .txLast       => 0b111100110#9
  | .badState101  => 0b111100000#9
  | .badState11x  => 0b111000000#9

/-- The encoder: the row's pattern with every bit the row does not examine 0 (the row's `match`, R81). -/
def encode : Instr → BitVec 9
  | .reset        => 0b100000000#9
  | .idleAdvance  => 0b000000000#9
  | .cfgHold      => 0b000100000#9
  | .cfgAccept    => 0b000110000#9
  | .rxHold       => 0b001000000#9
  | .rxAccept     => 0b001001000#9
  | .rxAcceptFill => 0b001001010#9
  | .procWait     => 0b001100000#9
  | .procError    => 0b001100010#9
  | .procDone     => 0b001100011#9
  | .txHold       => 0b010000000#9
  | .txWord       => 0b010000100#9
  | .txLast       => 0b010000110#9
  | .badState101  => 0b010100000#9
  | .badState11x  => 0b011000000#9

/-- A selector matches a row: "`0` and `1` must match, and a field letter means the bit is not examined" (R80). -/
abbrev rowMatches (i : Instr) (S : BitVec 9) : Prop := S &&& rowMask i = encode i

/-- The row's word with the unexamined bits taken from `free`: every selector of the row is one of these. -/
def encodeWith (i : Instr) (free : BitVec 9) : BitVec 9 := encode i ||| (free &&& ~~~ rowMask i)

/-- The instruction the decoder reads from a table word of `nbits` bits, bits above `nbits` being 0. -/
def decodeTableWord (nbits w : Nat) : Option Instr :=
  match decode (w % 2 ^ nbits) with
  | .ok i    => some i
  | .error _ => none

/-! ### The configuration word -/

/-- `decode(cw)` of R101: six unsigned fields, least significant bit at the lowest offset (R71, R72). Total on all 2^47 words,
no range check (R73, R102). -/
def decodeConfig (cw : CfgWord) : RateMatchConfig :=
  { inlen   := cw.extractLsb' 0 16
    outlen  := cw.extractLsb' 16 16
    rv      := cw.extractLsb' 32 2
    nlayers := cw.extractLsb' 34 3
    qm      := cw.extractLsb' 37 4
    nref    := cw.extractLsb' 41 6 }

/-- `encode(c)` of R103, the sum of the shifted fields; the producer's function, not the block's (R6). -/
def encodeConfig (c : RateMatchConfig) : CfgWord :=
  BitVec.ofNat 47 (c.inlen.toNat + c.outlen.toNat * 2 ^ 16 + c.rv.toNat * 2 ^ 32 + c.nlayers.toNat * 2 ^ 34
    + c.qm.toNat * 2 ^ 37 + c.nref.toNat * 2 ^ 41)

/-- The fields of a raw configuration at their widths, refused (`none`) when one does not fit: "a configuration with a field
that does not fit has no encoding" (R103, U8). -/
def RawConfig.fit (c : RawConfig) : Option RateMatchConfig :=
  if c.wf then
    some { inlen := BitVec.ofNat 16 c.inlen, outlen := BitVec.ofNat 16 c.outlen, rv := BitVec.ofNat 2 c.rv,
           nlayers := BitVec.ofNat 3 c.nlayers, qm := BitVec.ofNat 4 c.qm, nref := BitVec.ofNat 6 c.nref }
  else none

/-- `encode` on a raw configuration (R103), refused when a field does not fit (U8). -/
def encodeRaw (c : RawConfig) : Option CfgWord := c.fit.map encodeConfig

end Sys2Proof
end

