-- ==== Sys2Proof/Machine/State.lean ====
section
/-! DEFINITION. The machine's state, its faults and refusals, and the state after reset (spec/10_state.md). -/

namespace Sys2Proof.Machine

open Sys2Proof

/-- A word store (R50): pairs of a word index and the 128-bit word it holds, indices strictly rising; an index not listed
holds no value (R52). The block has no byte-addressed memory (R50, R58), so a cell is a word (log entry 9). -/
abbrev Memory := List (Nat × Word)

/-- The two word stores of the block (R50). -/
inductive StoreName where
  /-- The input queue `Q` (R26). -/
  | queue
  /-- The result store `R` (R29). -/
  | result
  deriving DecidableEq, Repr

/-! The codes of the `state` register (R78). -/

abbrev codeIdle       : BitVec 3 := 0b000#3
abbrev codeAwaitCfg   : BitVec 3 := 0b001#3
abbrev codeReceiving  : BitVec 3 := 0b010#3
abbrev codeProcessing : BitVec 3 := 0b011#3
abbrev codeEmitting   : BitVec 3 := 0b100#3

/-- Everything the spec gives the block (R22 to R32), its build parameters, and three fields of the model's own
(`script`, `sent`, `tick`: log entries 4 and 5). -/
structure State where
  /-- The build parameters, never changed by a step (R281). -/
  params  : Params
  /-- `state`, the controller phase, 3 bits (R22, R78). -/
  state   : BitVec 3
  /-- `cfg`, the configuration register (R23). -/
  cfg     : RateMatchConfig
  /-- `count`, the words held in the queue (R25). -/
  count   : Nat
  /-- `Q`, the input queue (R26). -/
  queue   : Memory
  /-- `proc_cnt`, the ticks spent in `PROCESSING` (R28). -/
  procCnt : Nat
  /-- `R`, the result store (R29). -/
  result  : Memory
  /-- `nwords`, the valid words of the result store (R30). -/
  nwords  : Nat
  /-- `idx`, the next output word (R31). -/
  idx     : Nat
  /-- `err`, the error status, 3 bits (R32, R240). -/
  err     : BitVec 3
  /-- The model's: the input samples of this tick and the following ones, oldest first. -/
  script  : List Pins
  /-- The model's: the output transfers so far, oldest first. -/
  sent    : List Emission
  /-- The model's: how many ticks were taken; it indexes the free values. -/
  tick    : Nat
  deriving DecidableEq, Repr

/-- The reasons a step can stop. No run from reset reaches one. -/
inductive Fault where
  /-- A store entry that holds no value was read; raised by PROC_ERROR and PROC_DONE (drain) and by TX_WORD and TX_LAST (the
  word offered). Safe: R52 and U3 make it a fault of the model. -/
  | unwrittenRead (store : StoreName)
  /-- `STUCK(AllFiller)`: RateMatch has no result; raised by PROC_ERROR and PROC_DONE. Safe: R151 and U6. -/
  | stuckAllFiller
  /-- PROC_ERROR was executed where RateMatch returns a sequence, or PROC_DONE where it raises an error: the operation's own
  condition fails and the spec gives it no effect there (R211, R212). `step` never executes one so. Safe: log entry 11. -/
  | selectorMismatch
  deriving DecidableEq, Repr

/-- The reasons for a refusal. -/
inductive Refusal where
  /-- An operation without a meaning yet, by its mnemonic. No arm of `exec` answers it. Safe. -/
  | notModelled (mnemonic : String)
  deriving DecidableEq, Repr

/-- The machine after a tick with `rst` = 1 (R37), with the spec's default parameters. The spec gives `cfg` no reset value: 0
here (DESIGN CHOICE, unsafe: log entry 1). -/
def State.reset : State :=
  { params := Params.default, state := codeIdle,
    cfg := { inlen := 0, outlen := 0, rv := 0, nlayers := 0, qm := 0, nref := 0 },
    count := 0, queue := [], procCnt := 0, result := [], nwords := 0, idx := 0, err := 0,
    script := [], sent := [], tick := 0 }

end Sys2Proof.Machine
end

