-- ==== Sys2Proof/Machine/Ops.lean ====
section
/-! DEFINITION. The named operations over the word stores and the registers: MemRead, MemWrite, the clearing of a reset, and
the taking of an error (which is all this block has in place of exception entry, R250, R251). -/

namespace Sys2Proof.Machine

open Sys2Proof

/-! ### Word stores -/

/-- `MemRead(_:i, 128)`: the word at an index, `none` when it holds no value (R51, R52). -/
def Memory.read : Memory → Nat → Option Word
  | [], _ => none
  | (a, w) :: m, i => if a = i then some w else Memory.read m i

/-- `MemWrite(_:i, 128, v)`, keeping the indices strictly rising (R51, R53). -/
def Memory.write : Memory → Nat → Word → Memory
  | [], i, v => [(i, v)]
  | (a, w) :: m, i, v =>
    if i < a then (i, v) :: (a, w) :: m
    else if i = a then (i, v) :: m
    else (a, w) :: Memory.write m i v

/-- The canonical form of a store: indices strictly rising, so that equal contents are equal lists. -/
abbrev Memory.wf (m : Memory) : Prop := (m.map Prod.fst).Pairwise (· < ·)

/-- A store holding exactly `ws` at indices `k`, `k + 1`, … -/
def Memory.ofWordsFrom : Nat → List Word → Memory
  | _, [] => []
  | k, w :: ws => (k, w) :: Memory.ofWordsFrom (k + 1) ws

/-- A store holding exactly `ws` at indices 0, 1, … -/
def Memory.ofWords (ws : List Word) : Memory := Memory.ofWordsFrom 0 ws

/-- `MemRead(_:i, 128)` for `i` in 0..n-1, in increasing order; `none` when one of them holds no value (R51, R52). -/
def Memory.words (m : Memory) : Nat → Option (List Word)
  | 0 => some []
  | n + 1 => do
    let ws ← Memory.words m n
    let w ← Memory.read m n
    pure (ws ++ [w])

/-! ### Errors -/

/-- The code of an error kind (R240). -/
def ErrorKind.code : ErrorKind → BitVec 3
  | .configError      => 1
  | .invalidParameter => 2
  | .insufficientData => 3
  | .decodeError      => 4

/-- The code of no error, `NONE` (R240). -/
def errNone : BitVec 3 := 0

/-- The drain's side effect: the queue is emptied, `count <- 0` (R123). -/
def State.emptyQueue (s : State) : State := { s with count := 0, queue := [] }

/-- Taking an error (R246, R211): the pass's data is discarded, the code goes to `err`, the processing counter is cleared and
the block returns to `IDLE`. Nothing else is recorded (R245); there is no handler and no return (R250, R251). -/
def State.takeError (kind : ErrorKind) (s : State) : State :=
  { s.emptyQueue with err := ErrorKind.code kind, procCnt := 0, state := codeIdle }

/-! ### Reset -/

/-- The register writes of RESET (R270), also of BAD_STATE (R215): the control registers at their reset values, the stores with
no value, and `cfg` unspecified, a free value of the tick (R37, U4; log entries 7 and 10). -/
def State.clearAll (s : State) : State :=
  { s with state := codeIdle, cfg := Config.freeCfg s.tick, count := 0, queue := [], procCnt := 0, result := [],
           nwords := 0, idx := 0, err := errNone }

/-! ### Power-up -/

/-- A block of parameters `p` at power-up, before the first reset: every register and every word of both stores is unspecified
(R38, U1). The stores are listed at least as far as the power-up counters reach, so that the first tick reads no entry without a
value, whatever the counters are. DESIGN CHOICE, safe: log entry 18. -/
def State.powerUp (p : Params) : State :=
  { params := p, state := Config.powerUpState, cfg := Config.powerUpCfg, count := Config.powerUpCount,
    queue := Memory.ofWords ((List.range (max p.maxWords Config.powerUpCount)).map Config.powerUpQueue),
    procCnt := Config.powerUpProcCnt,
    result := Memory.ofWords
      ((List.range (max p.resWords (Config.powerUpIdx + 1) + Config.powerUpSpare)).map Config.powerUpResult),
    nwords := Config.powerUpNwords, idx := Config.powerUpIdx, err := Config.powerUpErr, script := [], sent := [], tick := 0 }

/-! ### The end of a tick -/

/-- What every tick adds to its operation: the tick's input sample is used up, and the tick is counted (the model's own
fields; log entry 4). -/
def State.endTick (s : State) : State := { s with script := s.script.tail, tick := s.tick + 1 }

end Sys2Proof.Machine
end

