-- ==== Sys2Proof/Machine/Operands.lean ====
section
/-! DEFINITION. The operands of the operations: the inputs sampled on the tick (R33, R34), and the passage between data words
and bit sequences, most significant bit first in time (R55, R56). -/

namespace Sys2Proof.Machine

open Sys2Proof

/-- The inputs sampled on this tick: the head of `script`, or a free sample when it names none (R7, R34; log entry 4). -/
def State.pins (s : State) : Pins :=
  match s.script with
  | p :: _ => p
  | []     => Config.freePins s.tick

/-- `in_last` as the port presents it: absent unless `HAS_IN_LAST` (R16); no operation reads it (R124). -/
def State.inLast (s : State) : Option Bool := if s.params.hasInLast then some s.pins.inLast else none

/-- A bit of a data word as a tri-state element: never a filler (R149). -/
def TriBit.ofBool (b : Bool) : TriBit := if b then .one else .zero

/-- The bits of a word in chronological order: `w[127 - t]` for `t` = 0..127 (R55, R123). -/
def wordBits (w : Word) : List TriBit := (List.range 128).map fun t => TriBit.ofBool (w.getLsbD (127 - t))

/-- The natural number whose binary digits, most significant first, are `f 0`, …, `f (n - 1)`. -/
def msbFirst (f : Nat → Bool) : Nat → Nat
  | 0 => 0
  | n + 1 => 2 * msbFirst f n + (f n).toNat

/-- The word with `w[127 - t] = f t` (R56, R181). -/
def packWord (f : Nat → Bool) : Word := BitVec.ofNat 128 (msbFirst f 128)

end Sys2Proof.Machine
end

