-- ==== Sys2Proof/Machine/Flags.lean ====
section
/-! DEFINITION. The status outputs (the block has no condition codes, R35), the transfers they make, and the block's internal
condition `final` (R80). Every output is a function of the registers and of `rst` alone (R35). -/

namespace Sys2Proof.Machine

open Sys2Proof

/-- `cfg_ready` (R200). -/
def State.cfgReady (s : State) : Bool := !s.pins.rst && s.state == codeAwaitCfg

/-- `in_ready` (R201). -/
def State.inReady (s : State) : Bool := !s.pins.rst && s.state == codeReceiving && decide (s.count < s.params.maxWords)

/-- `out_valid` (R202). -/
def State.outValid (s : State) : Bool := !s.pins.rst && s.state == codeEmitting

/-- `idx == nwords - 1`, written without subtraction (log entry 13). -/
def State.atLastWord (s : State) : Bool := s.idx + 1 == s.nwords

/-- `out_data` (R203): `MemRead(R:idx, 128)` while a word is offered, an unwritten entry being the model's fault (R52); else a
free value drawn on the tick (U2). -/
def State.outData (s : State) : Except Fault Word :=
  if s.outValid then
    match Memory.read s.result s.idx with
    | some w => .ok w
    | none   => .error (.unwrittenRead .result)
  else .ok (Config.freeOutData s.tick)

/-- `out_last` (R204): absent unless `HAS_OUT_LAST`. -/
def State.outLast (s : State) : Option Bool :=
  if s.params.hasOutLast then some (s.outValid && s.atLastWord) else none

/-- `err_code` (R205). -/
def State.errCode (s : State) : BitVec 3 := if s.pins.rst then 0 else s.err

/-- `isReady`: `count == TRIGGER`, `TRIGGER` being `MAX_WORDS` (R27, R121, R13). -/
def State.isReady (s : State) : Bool := s.count == s.params.maxWords

/-- `cfg_xfer` (R206). -/
def State.cfgXfer (s : State) : Bool := s.pins.cfgValid && s.cfgReady

/-- `in_xfer` (R206). -/
def State.inXfer (s : State) : Bool := s.pins.inValid && s.inReady

/-- `out_xfer` (R206). -/
def State.outXfer (s : State) : Bool := s.pins.outReady && s.outValid

/-- `l`, the condition `final` of the selector (R80): the last word of the batch, the last processing tick, the last word of
the result; 0 in the other states. `x == n - 1` is written `x + 1 == n` (log entry 13). -/
def State.final (s : State) : Bool :=
  if s.state = codeReceiving then s.count + 1 == s.params.maxWords
  else if s.state = codeProcessing then s.procCnt + 1 == s.params.procTicks
  else if s.state = codeEmitting then s.atLastWord
  else false

end Sys2Proof.Machine
end

