-- ==== Sys2Proof/Machine/ConfigCodec.lean ====
section
/-! DEFINITION. The configuration codec's operations, those of the `AWAIT_CFG` state (spec/41_config_codec.md). The codec itself
is `decodeConfig` of Sys2Proof/Decode.lean (R100, R101). -/

namespace Sys2Proof.Machine

open Sys2Proof

/-- CFG_HOLD (R104): the block waits for a configuration word; no register changes. -/
def execCfgHold (s : State) : Host.Outcome State Fault Refusal := .next s

/-- CFG_ACCEPT (R105): `cfg <- decode(cfg_data)`, `err <- 0`, `state <- RECEIVING`. -/
def execCfgAccept (s : State) : Host.Outcome State Fault Refusal :=
  .next { s with cfg := decodeConfig s.pins.cfgData, err := errNone, state := codeReceiving }

end Sys2Proof.Machine
end

