-- ==== Sys2Proof/Machine/InputAssembler.lean ====
section
/-! DEFINITION. The input assembler: offer and drain, and the operations of the `RECEIVING` state
(spec/42_input_assembler.md). -/

namespace Sys2Proof.Machine

open Sys2Proof

/-- `offer(word)` (R122): a word is queued at index `count` when `count < MAX_WORDS`; otherwise it is "a defined refusal": not
queued, nothing recorded (R247; log entry 14). -/
def State.offer (w : Word) (s : State) : State :=
  if s.count < s.params.maxWords then { s with queue := Memory.write s.queue s.count w, count := s.count + 1 } else s

/-- The words `drain` reads, `Q[0]` .. `Q[count - 1]` in arrival order (R123); `none` when one holds no value (R52). -/
def State.drainWords (s : State) : Option (List Word) := Memory.words s.queue s.count

/-- The sequence `drain` returns: each word's bits, most significant first (R123). Its side effect is `State.emptyQueue`. -/
def State.drainBits (s : State) : Option (List TriBit) := s.drainWords.map fun ws => ws.flatMap wordBits

/-- RX_HOLD (R126): the block waits for a data word; no register changes. -/
def execRxHold (s : State) : Host.Outcome State Fault Refusal := .next s

/-- RX_ACCEPT (R127): `Q[count] <- in_data`, `count <- count + 1`. `in_last` is ignored (R124). -/
def execRxAccept (s : State) : Host.Outcome State Fault Refusal := .next (s.offer s.pins.inData)

/-- RX_ACCEPT_FILL (R128): the `MAX_WORDS`-th word; `Q[count] <- in_data`, `count <- MAX_WORDS`, `proc_cnt <- 0`,
`state <- PROCESSING`. -/
def execRxAcceptFill (s : State) : Host.Outcome State Fault Refusal :=
  .next { s with queue := Memory.write s.queue s.count s.pins.inData, count := s.params.maxWords, procCnt := 0,
                 state := codeProcessing }

end Sys2Proof.Machine
end

