-- ==== Sys2Proof/Machine/OutputChunker.lean ====
section
/-! DEFINITION. The output chunker and the operations of the `EMITTING` state (spec/44_output_chunker.md). -/

namespace Sys2Proof.Machine

open Sys2Proof

/-- `ceil(E / 128)`, the words of a sequence of `E` bits (R181). -/
def chunkCount (e : Nat) : Nat := (e + 127) / 128

/-- Word `k` of `chunk(f)` (R181): `w[127 - t]` is `f[128 k + t]`, or 0 beyond the end. -/
def chunkWord (f : List Bool) (k : Nat) : Word := packWord fun t => f.getD (128 * k + t) false

/-- The words of `chunk(f)` in order (R181). -/
def chunk (f : List Bool) : List Word := (List.range (chunkCount f.length)).map (chunkWord f)

/-- The transfer of the offered word to the consumer: the word and the end marker of the tick (R77, R183, R204). -/
def State.emit (w : Word) (s : State) : State := { s with sent := s.sent ++ [{ data := w, last := s.outLast }] }

/-- TX_HOLD (R185): the consumer is not ready; no register changes. -/
def execTxHold (s : State) : Host.Outcome State Fault Refusal := .next s

/-- TX_WORD (R186): `R[idx]` is transferred, `idx <- idx + 1`. -/
def execTxWord (s : State) : Host.Outcome State Fault Refusal :=
  match Memory.read s.result s.idx with
  | none   => .fault (.unwrittenRead .result)
  | some w => .next { s.emit w with idx := s.idx + 1 }

/-- TX_LAST (R187): `R[idx]` is transferred and the pass ends; `idx <- 0`, `nwords <- 0` (the result is discarded, so the store
holds no value, R52), `state <- IDLE`. -/
def execTxLast (s : State) : Host.Outcome State Fault Refusal :=
  match Memory.read s.result s.idx with
  | none   => .fault (.unwrittenRead .result)
  | some w => .next { s.emit w with idx := 0, nwords := 0, result := [], state := codeIdle }

end Sys2Proof.Machine
end

