-- ==== Sys2Proof/Machine/RateMatcher.lean ====
section
/-! DEFINITION. The rate-matching function, step by step (spec/43_rate_matcher.md). All arithmetic is exact natural-number
arithmetic (R19). -/

namespace Sys2Proof.Machine

open Sys2Proof

/-- `LIFT`, the 51 lifting sizes "exactly as printed" (R143). -/
def liftingSizes : List Nat :=
  [2, 3, 4, 5, 6, 7, 8, 9, 10, 11, 12, 13, 14, 15, 16, 18, 20, 22, 24, 26, 28, 30, 32, 36, 40, 44, 48, 52, 56, 60, 64,
   72, 80, 88, 96, 104, 112, 120, 128, 144, 160, 176, 192, 208, 224, 240, 256, 288, 320, 352, 384]

/-- Step 2, `Ncb` (R141): 0 in `Nref` means unlimited. -/
def softBufferSize (inlen nref : Nat) : Nat := if nref = 0 then inlen else min inlen nref

/-- Step 3a, the base graph (R142): 1 exactly when `inlen` is 66 times a lifting size. -/
def baseGraph (inlen : Nat) : BaseGraph := if liftingSizes.any (fun z => inlen == 66 * z) then .bg1 else .bg2

/-- `ncwnodes`, the column count of a base graph (R142). -/
def columnCount : BaseGraph → Nat
  | .bg1 => 66
  | .bg2 => 50

/-- Step 3b, the lifting size `Zc` (R144). -/
def liftingSize (inlen : Nat) : Nat := inlen / columnCount (baseGraph inlen)

/-- The `k0` numerators `K[bgn][rv]` (R145). -/
def offsetNumerator (bgn : BaseGraph) (rv : BitVec 2) : Nat :=
  match bgn, rv.toNat with
  | _, 0 => 0
  | .bg1, 1 => 17
  | .bg1, 2 => 33
  | .bg1, _ => 56
  | .bg2, 1 => 13
  | .bg2, 2 => 25
  | .bg2, _ => 43

/-- Step 4, the starting offset `k0` (R145): the floor is of the exact rational, so the product comes before the division
(R146). -/
def startOffset (inlen nref : Nat) (rv : BitVec 2) : Nat :=
  offsetNumerator (baseGraph inlen) rv * softBufferSize inlen nref / inlen * liftingSize inlen

/-- Step 5, the output length `E` under each `E_MODE` (R147). The condition of `LITERAL` is evaluated in signed integers. -/
def outputLength (mode : EMode) (outlen nq : Nat) : Nat :=
  let fl := nq * (outlen / nq)
  let ce := nq * ((outlen + nq - 1) / nq)
  match mode with
  | .floor    => fl
  | .literal  => if (1 : Int) - ((outlen / nq : Nat) : Int) - 1 ≥ 0 then fl else ce
  | .modEquiv => if outlen % nq = 0 then fl else ce

/-- The walk of step 6 (R150) from position counter `j`, with `need` bits still to collect. Lean's functions end, so the walk
has a bound on the positions it inspects; `none` says that it did not end within it. -/
def selectWalk (input : List TriBit) (ncb k0 : Nat) : (bound need j : Nat) → Option (List Bool)
  | _, 0, _ => some []
  | 0, _ + 1, _ => none
  | bound + 1, need + 1, j =>
    match input[(k0 + j) % ncb]? with
    | some .filler => selectWalk input ncb k0 bound (need + 1) (j + 1)
    | some .zero   => (selectWalk input ncb k0 bound need (j + 1)).map (false :: ·)
    | some .one    => (selectWalk input ncb k0 bound need (j + 1)).map (true :: ·)
    | none         => none

/-- Step 6, bit selection (R150): `E` elements of the circular buffer from `k0` on, fillers skipped; `none` is
`STUCK(AllFiller)` (R151). Each `Ncb` positions in a row hold a bit unless all are fillers, so a walk that ends at all ends within
`E * Ncb` positions. -/
def select (input : List TriBit) (ncb k0 e : Nat) : Option (List Bool) := selectWalk input ncb k0 (e * ncb) e 0

/-- Step 7, the interleaver (R153): output position `i * Qm + j` is fed by `e[j * rows + i]`. -/
def interleave {α : Type} (e : List α) (qm : Nat) : Except ErrorKind (List α) :=
  if e.length % qm ≠ 0 then .error .invalidParameter
  else
    let rows := e.length / qm
    .ok ((List.range rows).flatMap fun i => (List.range qm).filterMap fun j => e[j * rows + i]?)

/-- The inverse of the interleaver (R154): position `j * rows + i` is fed by `f[i * Qm + j]`. -/
def deinterleave {α : Type} (f : List α) (qm : Nat) : List α :=
  let rows := f.length / qm
  (List.range qm).flatMap fun j => (List.range rows).filterMap fun i => f[i * qm + j]?

/-- `RateMatch(b, c)` (R155): the five checks in their order (R159), then steps 1 to 7. -/
def rateMatch (mode : EMode) (b : List TriBit) (c : RateMatchConfig) : RateMatchResult :=
  let inlen := c.inlen.toNat
  let nq := c.nlayers.toNat * c.qm.toNat
  let ncb := softBufferSize inlen c.nref.toNat
  if inlen = 0 then .error .invalidParameter
  else if b.length < inlen then .error .insufficientData
  else if ncb = 0 then .error .invalidParameter
  else if nq = 0 then .error .invalidParameter
  else
    let e := outputLength mode c.outlen.toNat nq
    if e % c.qm.toNat ≠ 0 then .error .invalidParameter
    else
      match select (b.take inlen) ncb (startOffset inlen c.nref.toNat c.rv) e with
      | none => .stuck
      | some bits =>
        match interleave bits c.qm.toNat with
        | .error k => .error k
        | .ok f    => .sequence f

end Sys2Proof.Machine
end

