-- ==== Sys2Proof/Machine/StreamController.lean ====
section
/-! DEFINITION. The stream controller: the operations of the `IDLE` and `PROCESSING` states and of the illegal state codes
(spec/45_stream_controller.md), and RESET (spec/70_reset_and_hazards.md). -/

namespace Sys2Proof.Machine

open Sys2Proof

/-- `RateMatch(drain(), cfg)` on a state (R206); `none` when the drain reads an entry without a value (R52). -/
def State.passResult (s : State) : Option RateMatchResult :=
  s.drainBits.map fun b => rateMatch s.params.eMode b s.cfg

/-- `chunk(f)` and the end of processing (R212): `R[0 .. nwords-1]` and `nwords` are written, `idx <- 0`, `proc_cnt <- 0`, and
`EMITTING` follows, or `IDLE` when there is no word (R184). -/
def State.storeResult (f : List Bool) (s : State) : State :=
  { s.emptyQueue with
    result := Memory.ofWords (chunk f), nwords := chunkCount f.length, idx := 0, procCnt := 0,
    state := if chunkCount f.length = 0 then codeIdle else codeEmitting }

/-- IDLE_ADVANCE (R208): `state <- AWAIT_CFG`. -/
def execIdleAdvance (s : State) : Host.Outcome State Fault Refusal := .next { s with state := codeAwaitCfg }

/-- PROC_WAIT (R210): `proc_cnt <- proc_cnt + 1`. -/
def execProcWait (s : State) : Host.Outcome State Fault Refusal := .next { s with procCnt := s.procCnt + 1 }

/-- PROC_ERROR (R211): the drain, and the error RateMatch raises is taken. -/
def execProcError (s : State) : Host.Outcome State Fault Refusal :=
  match s.passResult with
  | none               => .fault (.unwrittenRead .queue)
  | some (.error kind) => .next (s.takeError kind)
  | some (.sequence _) => .fault .selectorMismatch
  | some .stuck        => .fault .stuckAllFiller

/-- PROC_DONE (R212): the drain, and the sequence RateMatch returns is chunked into the result store. -/
def execProcDone (s : State) : Host.Outcome State Fault Refusal :=
  match s.passResult with
  | none               => .fault (.unwrittenRead .queue)
  | some (.sequence f) => .next (s.storeResult f)
  | some (.error _)    => .fault .selectorMismatch
  | some .stuck        => .fault .stuckAllFiller

/-- BAD_STATE on code 101 (R215): the register writes of RESET. -/
def execBadState101 (s : State) : Host.Outcome State Fault Refusal := .next s.clearAll

/-- BAD_STATE on codes 110 and 111 (R215): the register writes of RESET. -/
def execBadState11x (s : State) : Host.Outcome State Fault Refusal := .next s.clearAll

/-- RESET (R270). -/
def execReset (s : State) : Host.Outcome State Fault Refusal := .next s.clearAll

end Sys2Proof.Machine
end

