-- ==== Sys2Proof/Machine/Dispatch.lean ====
section
/-! DEFINITION. One arm per operation. -/

namespace Sys2Proof.Machine

open Sys2Proof

def exec (i : Instr) (s : State) : Host.Outcome State Fault Refusal :=
  match i with
  | .reset => Sys2Proof.Machine.execReset s
  | .idleAdvance => Sys2Proof.Machine.execIdleAdvance s
  | .cfgHold => Sys2Proof.Machine.execCfgHold s
  | .cfgAccept => Sys2Proof.Machine.execCfgAccept s
  | .rxHold => Sys2Proof.Machine.execRxHold s
  | .rxAccept => Sys2Proof.Machine.execRxAccept s
  | .rxAcceptFill => Sys2Proof.Machine.execRxAcceptFill s
  | .procWait => Sys2Proof.Machine.execProcWait s
  | .procError => Sys2Proof.Machine.execProcError s
  | .procDone => Sys2Proof.Machine.execProcDone s
  | .txHold => Sys2Proof.Machine.execTxHold s
  | .txWord => Sys2Proof.Machine.execTxWord s
  | .txLast => Sys2Proof.Machine.execTxLast s
  | .badState101 => Sys2Proof.Machine.execBadState101 s
  | .badState11x => Sys2Proof.Machine.execBadState11x s

end Sys2Proof.Machine
end

