-- ==== Sys2Proof/Machine/Fetch.lean ====
section
/-! DEFINITION. The fetch: the tick selector the block forms from its inputs and registers (R80), and its inverse, the state in
which a given selector is the one formed. -/

namespace Sys2Proof.Machine

open Sys2Proof

/-- `k`, the condition `ok` of the selector (R80): in `PROCESSING`, whether `RateMatch(drain(), cfg)` returns a sequence; 0 in
the other states. -/
def State.ok (s : State) : Bool :=
  if s.state = codeProcessing then
    match s.passResult with
    | some (.sequence _) => true
    | _ => false
  else false

/-- The tick selector `S` (R80): `rst`, `state`, `cfg_valid`, `in_valid`, `out_ready`, `final`, `ok`, from S[8] down to S[0]. -/
def State.selector (s : State) : BitVec 9 :=
  BitVec.ofBool s.pins.rst ++ s.state ++ BitVec.ofBool s.pins.cfgValid ++ BitVec.ofBool s.pins.inValid
    ++ BitVec.ofBool s.pins.outReady ++ BitVec.ofBool s.final ++ BitVec.ofBool s.ok

/-- The operation of this tick (R81). -/
def State.operation (s : State) : Instr := decodeSelector s.selector

/-- An all-zero input sample. -/
def idlePins : Pins :=
  { rst := false, cfgValid := false, cfgData := 0, inValid := false, inData := 0, inLast := false, outReady := false }

/-- A store of `n` zero words. -/
def zeroWords (n : Nat) : Memory := Memory.ofWords (List.replicate n 0)

/-- This tick's inputs with the handshake bits of a selector; the data stays that of the sample already there, 0 where the
script names none. -/
def State.placePins (S : BitVec 9) (s : State) : State :=
  { s with script := { s.script.headD idlePins with
                       rst := S.getLsbD 8, cfgValid := S.getLsbD 4, inValid := S.getLsbD 3, outReady := S.getLsbD 2 }
                     :: s.script.tail }

/-- Make `RECEIVING` form the given `final`. -/
def State.placeReceiving (final : Bool) (s : State) : State :=
  if final then { s with count := s.params.maxWords - 1, queue := zeroWords (s.params.maxWords - 1) }
  else if s.count + 1 = s.params.maxWords then
    { s with count := 0, queue := [], params := { s.params with maxWords := max 2 s.params.maxWords } }
  else s

/-- Make `PROCESSING` form the given `final` and `ok`: a full queue of zero words, and a configuration that RateMatch accepts
(one bit of one) or refuses (`inlen` = 0). -/
def State.placeProcessing (final ok : Bool) (s : State) : State :=
  { s with
    count := s.params.maxWords, queue := zeroWords s.params.maxWords,
    cfg := if ok then { inlen := 1, outlen := 1, rv := 0, nlayers := 1, qm := 1, nref := 0 }
           else { inlen := 0, outlen := 0, rv := 0, nlayers := 0, qm := 0, nref := 0 },
    procCnt := if final then s.params.procTicks - 1 else 0,
    params := if final then s.params else { s.params with procTicks := max 2 s.params.procTicks } }

/-- Make `EMITTING` form the given `final`: the first word of one, or of two, zero words. -/
def State.placeEmitting (final : Bool) (s : State) : State :=
  { s with idx := 0, nwords := if final then 1 else 2, result := zeroWords (if final then 1 else 2) }

/-- The state in which the block forms the selector `S` on this tick: the state code and the inputs as `S` has them, and, where
the row examines them, the counters, stores, configuration and parameters that make its conditions `final` and `ok` come out as
`S` says (log entry 15). -/
def State.placeSelector (S : BitVec 9) (s : State) : State :=
  let t := { s with state := S.extractLsb' 5 3 }.placePins S
  match (S.extractLsb' 5 3).toNat with
  | 2 => t.placeReceiving (S.getLsbD 1)
  | 3 => t.placeProcessing (S.getLsbD 1) (S.getLsbD 0)
  | 4 => t.placeEmitting (S.getLsbD 1)
  | _ => t

end Sys2Proof.Machine
end

