-- ==== Sys2Proof/Machine/Step.lean ====
section
/-! DEFINITION. One tick of the block (R9, R206): the operation the selector names is executed, and the tick ends. -/

namespace Sys2Proof.Machine

open Sys2Proof

/-- The end of the tick, on the outcome of the operation. -/
def finishTick : Host.Outcome State Fault Refusal → Host.Outcome State Fault Refusal
  | .next s    => .next s.endTick
  | .fault r   => .fault r
  | .refused r => .refused r

/-- One tick (R206): "exactly one operation, chosen by the tick selector". -/
def step (s : State) : Host.Outcome State Fault Refusal := finishTick (exec s.operation s)

/-- The state whose next tick performs the operation of the table word `w` (log entry 15). -/
def State.withFetchWord (s : State) (nbits w : Nat) : State := s.placeSelector (BitVec.ofNat 9 (w % 2 ^ nbits))

end Sys2Proof.Machine
end

