-- ==== Sys2Proof/Machine/Stimulus.lean ====
section
/-! DEFINITION. The stimulus notation of R84: producers that hold a list of words and a schedule, run against the block. It is
the environment of the programs of the spec, not a part of the block. -/

namespace Sys2Proof.Machine

open Sys2Proof

/-- A program in the notation of R84, without its `PARAM` line (which is `State.params`). -/
structure Stimulus where
  /-- `CFG`, the configuration producer's list. -/
  cfgs     : List CfgWord
  /-- `DATA`, the data producer's list. -/
  datas    : List Word
  /-- `RST`, the ticks at which `rst` = 1. -/
  rstTicks : List Nat
  /-- `OUT_READY`, the ticks at which `out_ready` = 0. -/
  stalls   : List Nat
  /-- `IN_HOLD`, the ticks at which the data producer drives `in_valid` = 0. -/
  holds    : List Nat
  deriving DecidableEq, Repr

/-- The inputs at tick `t` (R84): a producer whose list is not empty drives valid = 1 with the head of its list; an empty list
drives valid = 0. R84 names no data for a tick with valid = 0: an empty list drives 0 here, and the data producer at an `IN_HOLD`
tick the head of its list; nor does it name `in_last`, which is 0 here (DESIGN CHOICE, safe, never read, U13, U14: log entry 20). -/
def stimulusPins (u : Stimulus) (t : Nat) : Pins :=
  { rst      := u.rstTicks.contains t
    cfgValid := !u.cfgs.isEmpty
    cfgData  := u.cfgs.headD 0
    inValid  := !u.datas.isEmpty && !u.holds.contains t
    inData   := u.datas.headD 0
    inLast   := false
    outReady := !u.stalls.contains t }

/-- The producers after a tick that the block began in `s`: each removes the head of its list on a transfer (R84). -/
def stimulusNext (u : Stimulus) (s : State) : Stimulus :=
  { u with cfgs := if s.cfgXfer then u.cfgs.tail else u.cfgs, datas := if s.inXfer then u.datas.tail else u.datas }

/-- The block with this tick's inputs taken from the stimulus. -/
def State.present (u : Stimulus) (t : Nat) (s : State) : State := { s with script := [stimulusPins u t] }

/-- `n` ticks of the block against the stimulus, the first being tick `t`. -/
def runStimulus : Nat → Nat → Stimulus → State → Host.Outcome State Fault Refusal
  | 0, _, _, s => .next s
  | n + 1, t, u, s =>
    match step (s.present u t) with
    | .next s'   => runStimulus n (t + 1) (stimulusNext u (s.present u t)) s'
    | .fault r   => .fault r
    | .refused r => .refused r

end Sys2Proof.Machine
end

