-- ==== Sys2Proof/Safety.lean ====
section
/-! DEFINITION. What counts as a safe state and a safe run of the block: the invariants of spec/10_state.md §5, the edges of the
state cycle, and the words in which statements about passes are written. -/

namespace Sys2Proof.Machine

open Sys2Proof

/-- The `state` register holds one of the five codes of R78. -/
abbrev State.legal (s : State) : Prop :=
  s.state = codeIdle ∨ s.state = codeAwaitCfg ∨ s.state = codeReceiving ∨ s.state = codeProcessing
    ∨ s.state = codeEmitting

/-- The table of R36, row by row. -/
abbrev State.table (s : State) : Prop :=
  (s.state = codeIdle → s.count = 0 ∧ s.procCnt = 0 ∧ s.nwords = 0 ∧ s.idx = 0) ∧
  (s.state = codeAwaitCfg → s.count = 0 ∧ s.procCnt = 0 ∧ s.nwords = 0 ∧ s.idx = 0) ∧
  (s.state = codeReceiving → s.count < s.params.maxWords ∧ s.procCnt = 0 ∧ s.nwords = 0 ∧ s.idx = 0) ∧
  (s.state = codeProcessing →
    s.count = s.params.maxWords ∧ s.procCnt < s.params.procTicks ∧ s.nwords = 0 ∧ s.idx = 0) ∧
  (s.state = codeEmitting →
    s.count = 0 ∧ s.procCnt = 0 ∧ 1 ≤ s.nwords ∧ s.nwords ≤ s.params.resWords ∧ s.idx < s.nwords)

/-- The stores hold words at exactly the indices of the current pass: `Q[0 .. count-1]` (R26) and `R[0 .. nwords-1]` (R29). -/
abbrev State.stored (s : State) : Prop :=
  s.queue.map Prod.fst = List.range s.count ∧ s.result.map Prod.fst = List.range s.nwords

/-- `err` holds a code the block can produce (R240 "reachable in the block"), and `NONE` from CFG_ACCEPT to the end of the
pass (R32, R212). -/
abbrev State.errOk (s : State) : Prop :=
  (s.err = 0 ∨ s.err = 2 ∨ s.err = 3) ∧
  (s.state = codeReceiving ∨ s.state = codeProcessing ∨ s.state = codeEmitting → s.err = 0)

/-- The invariant of every state reached from reset (R36, R79, R26, R29, R240). -/
abbrev State.Inv (s : State) : Prop := s.params.wf ∧ s.legal ∧ s.table ∧ s.stored ∧ s.errOk

/-- The edges of the state cycle (R207) and the ticks that hold, on a tick without reset and in a legal state. -/
abbrev cycleEdge (a b : BitVec 3) : Prop :=
  (a = codeIdle ∧ b = codeAwaitCfg) ∨
  (a = codeAwaitCfg ∧ (b = codeAwaitCfg ∨ b = codeReceiving)) ∨
  (a = codeReceiving ∧ (b = codeReceiving ∨ b = codeProcessing)) ∨
  (a = codeProcessing ∧ (b = codeProcessing ∨ b = codeEmitting ∨ b = codeIdle)) ∨
  (a = codeEmitting ∧ (b = codeEmitting ∨ b = codeIdle))

/-- An element of a tri-state sequence as a bit; a filler is none (R149). -/
def TriBit.toBool? : TriBit → Option Bool
  | .zero   => some false
  | .one    => some true
  | .filler => none

/-- The assembled sequence of a batch of data words (R55, R123). -/
def assembled (ws : List Word) : List TriBit := ws.flatMap wordBits

/-- What the consumer receives for the words of a pass: each with the end marker, set on the last one only, where the port
exists (R77, R183). -/
def marked (p : Params) (ws : List Word) : List Emission :=
  ws.mapIdx fun k w => { data := w, last := if p.hasOutLast then some (k + 1 == ws.length) else none }

/-- The status outputs of a tick (R35); `out_data` apart. -/
def State.statusOutputs (s : State) : Bool × Bool × Bool × Option Bool × BitVec 3 :=
  (s.cfgReady, s.inReady, s.outValid, s.outLast, s.errCode)

end Sys2Proof.Machine
end

