-- ==== Sys2Proof/Certificates/Slice0/Obligations.lean ====
section
/-! DEFINITION. The statements about the model, for the provers. Each docstring says which rule of spec/ it formalises, or which
sections it rests on and what in it is the model's own. The model's own fields of State are `script`, `sent` and `tick` (log
entries 4 and 5). -/

open Sys2Proof Sys2Proof.Machine

/-! ### The step and the decoders -/

/-- A tick executes the operation its selector decodes to, then uses up the tick's input sample and counts the tick (the model's
own fields `script` and `tick`, log entry 4); a fault or a refusal of the operation is the tick's (R80, R206). -/
def Obligations.StepRunsTheDecodedOperation : Prop :=
  ∀ (s : State) (i : Instr), decode s.selector.toNat = .ok i →
    (∀ t, exec i s = .next t → step s = .next { t with script := t.script.tail, tick := t.tick + 1 }) ∧
    (∀ r, exec i s = .fault r → step s = .fault r) ∧
    (∀ r, exec i s = .refused r → step s = .refused r)

/-- Selector words of the vectors T1 to T18 of spec/95_test_vectors.md and of the operation map decode to the operations the
spec names; a number of more than 9 bits is refused by name (the model's choice, log entry 16). -/
def Obligations.SelectorWordsOfTheVectorsDecode : Prop :=
  decode 0x184 = .ok .reset ∧ decode 0x010 = .ok .idleAdvance ∧ decode 0x020 = .ok .cfgHold ∧ decode 0x030 = .ok .cfgAccept ∧
  decode 0x048 = .ok .rxAccept ∧ decode 0x042 = .ok .rxHold ∧ decode 0x04A = .ok .rxAcceptFill ∧
  decode 0x060 = .ok .procWait ∧ decode 0x062 = .ok .procError ∧ decode 0x063 = .ok .procDone ∧
  decode 0x080 = .ok .txHold ∧ decode 0x084 = .ok .txWord ∧ decode 0x086 = .ok .txLast ∧
  decode 0x0A0 = .ok .badState101 ∧ decode 0x0C0 = .ok .badState11x ∧ decode 0x0E0 = .ok .badState11x ∧
  decode 0x200 = .error .selectorTooWide

/-- Decoding and encoding agree, for the tick selector with the unexamined bits at every value (so every selector value matches
exactly one row of the operation map, the one the decoder answers), and for the configuration word with every field at every value
(R81, R101, R103; the spec marks R81's count and R103's second direction as derived). -/
def Obligations.EncodersAndDecodersAgree : Prop :=
  (∀ (i : Instr) (free : BitVec 9), decode (encodeWith i free).toNat = .ok i) ∧
  (∀ S : BitVec 9, encodeWith (decodeSelector S) S = S) ∧
  (∀ c : RateMatchConfig, decodeConfig (encodeConfig c) = c) ∧
  (∀ cw : CfgWord, encodeConfig (decodeConfig cw) = cw)

/-- R101: `decode` extracts the six unsigned fields at their offsets, on every 47-bit word, with no range check. -/
def Obligations.ConfigDecodeExtractsSixFields : Prop :=
  ∀ cw : CfgWord,
    (decodeConfig cw).inlen.toNat = cw.toNat % 2 ^ 16 ∧
    (decodeConfig cw).outlen.toNat = cw.toNat / 2 ^ 16 % 2 ^ 16 ∧
    (decodeConfig cw).rv.toNat = cw.toNat / 2 ^ 32 % 2 ^ 2 ∧
    (decodeConfig cw).nlayers.toNat = cw.toNat / 2 ^ 34 % 2 ^ 3 ∧
    (decodeConfig cw).qm.toNat = cw.toNat / 2 ^ 37 % 2 ^ 4 ∧
    (decodeConfig cw).nref.toNat = cw.toNat / 2 ^ 41 % 2 ^ 6

/-- R103 without its derived sentence: `encode` of a configuration whose fields fit is the sum of the shifted fields and decodes
to the same fields; one with a field that does not fit is refused. -/
def Obligations.ConfigEncodeSumsFieldsAndRefusesMisfits : Prop :=
  ∀ c : RawConfig,
    (c.wf → ∃ cw, encodeRaw c = some cw ∧
      cw.toNat = c.inlen + c.outlen * 2 ^ 16 + c.rv * 2 ^ 32 + c.nlayers * 2 ^ 34 + c.qm * 2 ^ 37 + c.nref * 2 ^ 41 ∧
      (decodeConfig cw).inlen.toNat = c.inlen ∧ (decodeConfig cw).outlen.toNat = c.outlen ∧
      (decodeConfig cw).rv.toNat = c.rv ∧ (decodeConfig cw).nlayers.toNat = c.nlayers ∧
      (decodeConfig cw).qm.toNat = c.qm ∧ (decodeConfig cw).nref.toNat = c.nref) ∧
    (¬ c.wf → encodeRaw c = none)

/-- The state `withFetchWord` builds forms a selector of the operation that the word decodes to, whatever the state and the
build it starts from (R80; the placing itself is the model's, log entry 15). -/
def Obligations.PlacedSelectorWordIsTheOneExecuted : Prop :=
  ∀ (s : State) (nbits w : Nat), s.params.wf → 9 ≤ nbits → w < 512 →
    (s.withFetchWord nbits w).operation = decodeSelector (BitVec.ofNat 9 w)

/-! ### Reset, boot and the state after reset -/

/-- R37: the state after reset: `IDLE`, the counters and `err` 0, both stores without a value. (R37 gives `cfg` no value, and
nothing is said of it.) -/
def Obligations.StateAfterResetHoldsTheResetValues : Prop :=
  State.reset.state = codeIdle ∧ State.reset.count = 0 ∧ State.reset.procCnt = 0 ∧ State.reset.nwords = 0 ∧
  State.reset.idx = 0 ∧ State.reset.err = 0 ∧
  (∀ a, Memory.read State.reset.queue a = none) ∧ (∀ a, Memory.read State.reset.result a = none)

/-- R270: RESET, in any state: the registers it clears, the outputs gated on the same tick, no transfer on any port; nothing else
of the machine changes but `cfg`, of which R270 gives no value. -/
def Obligations.ResetDiscardsEverything : Prop :=
  ∀ s : State,
    (s.operation = .reset ↔ s.pins.rst = true) ∧
    (∃ t, exec .reset s = .next t ∧
      t.state = codeIdle ∧ t.count = 0 ∧ t.procCnt = 0 ∧ t.nwords = 0 ∧ t.idx = 0 ∧ t.err = 0 ∧
      (∀ a, Memory.read t.queue a = none) ∧ (∀ a, Memory.read t.result a = none) ∧
      t.params = s.params ∧ t.script = s.script ∧ t.sent = s.sent ∧ t.tick = s.tick ∧
      (s.params.wf → t.isReady = false)) ∧
    (s.pins.rst = true →
      s.cfgReady = false ∧ s.inReady = false ∧ s.outValid = false ∧ s.outLast ≠ some true ∧ s.errCode = 0 ∧
      s.cfgXfer = false ∧ s.inXfer = false ∧ s.outXfer = false)

/-- Boot (R280, R38): one tick with `rst` = 1 takes ANY state of a well-formed build, the unspecified power-up state among them,
to `IDLE` and to the invariant of the states reached from reset (R36 is marked derived by the spec). Whatever its inputs, the first
tick after power-up completes: no word of the stores is missing (the form of the power-up state is the model's, log entry 18). -/
def Obligations.OneResetTickBootsAnyState : Prop :=
  (∀ s : State, s.params.wf → s.pins.rst = true → ∃ t, step s = .next t ∧ t.state = codeIdle ∧ t.Inv) ∧
  (∀ (p : Params) (u : Pins), p.wf → u.rst = true →
    ∃ t, step { State.powerUp p with script := [u] } = .next t ∧ t.state = codeIdle ∧ t.Inv) ∧
  (∀ (p : Params) (u : Pins), ∃ t, step { State.powerUp p with script := [u] } = .next t)

/-- A reset tick leaves nothing of the pass before it: two states of one build with the same inputs, ticks taken and words sent
step to the same state, whatever their registers and stores held (R270, R272 "atomic"; that `cfg` is the same free draw in
both is the model's, log entry 7). -/
def Obligations.ResetForgetsThePassBeforeIt : Prop :=
  ∀ s s' : State, s.params = s'.params → s.script = s'.script → s.sent = s'.sent → s.tick = s'.tick →
    s.pins.rst = true → step s = step s'

/-! ### Invariants and whole-machine rules -/

/-- The state after reset satisfies the invariant. -/
def Obligations.StateAfterResetSatisfiesInvariant : Prop := State.reset.Inv

/-- Every step keeps the invariant (R36, R79, R26, R29, R240; R36 and R79 are marked derived by the spec), from every state that
satisfies it. -/
def Obligations.EveryStepKeepsTheInvariant : Prop :=
  ∀ s t : State, s.Inv → step s = .next t → t.Inv

/-- From a state with the invariant every tick completes: no fault, no refusal (R207 "A run never ends on its own"; R52 makes
the unwritten reads unreachable). -/
def Obligations.InvariantStatesAlwaysStep : Prop := ∀ s : State, s.Inv → ∃ t, step s = .next t

/-- R207: the states form one cycle. From a state with the invariant, a tick without reset goes along an edge of the cycle or
holds, leaves `PROCESSING` for `IDLE` only by PROC_ERROR or by PROC_DONE with `E` = 0, and a reset goes to `IDLE`; a run never
ends on its own; and an illegal code goes to `IDLE` from any state. -/
def Obligations.StatesFormOneCycle : Prop :=
  (∀ s : State, s.Inv → ∃ t, step s = .next t ∧
    (s.pins.rst = true → t.state = codeIdle) ∧
    (s.pins.rst = false → cycleEdge s.state t.state) ∧
    (s.pins.rst = false → s.state = codeProcessing → t.state = codeIdle →
      s.operation = .procError ∨ (s.operation = .procDone ∧ s.passResult = some (.sequence [])))) ∧
  (∀ s : State, ¬ s.legal → ∃ t, step s = .next t ∧ t.state = codeIdle)

/-- At most one transfer happens on a tick (R60, which the spec marks derived). -/
def Obligations.AtMostOneTransferPerTick : Prop :=
  ∀ s : State, (s.cfgXfer && s.inXfer) = false ∧ (s.cfgXfer && s.outXfer) = false ∧ (s.inXfer && s.outXfer) = false

/-- R281, second half of its first sentence: no operation changes the build parameters. -/
def Obligations.NoOperationChangesTheParameters : Prop :=
  ∀ (i : Instr) (s t : State), exec i s = .next t → t.params = s.params

/-- `cfg` is written only by CFG_ACCEPT, from the word transferred on that tick; RESET and BAD_STATE leave it unspecified (R23, R24,
R64, R106: sections 2 of 10_state.md, 5 of 20_memory.md and 2 of 41_config_codec.md; R24, R64 and R106 are marked derived). -/
def Obligations.ConfigRegisterIsWrittenOnlyByCfgAccept : Prop :=
  ∀ s t : State, step s = .next t →
    s.operation = .reset ∨ s.operation = .badState101 ∨ s.operation = .badState11x ∨
    (s.operation = .cfgAccept ∧ s.cfgXfer = true ∧ t.cfg = decodeConfig s.pins.cfgData) ∨
    (s.cfgXfer = false ∧ t.cfg = s.cfg)

/-- R32: `err` is written by PROC_ERROR with the code of the error, cleared by CFG_ACCEPT and by RESET (and BAD_STATE, R215), kept
by every other operation, and shown on `err_code`. -/
def Obligations.ErrorStatusIsWrittenOnlyAsStated : Prop :=
  ∀ s t : State, step s = .next t →
    ((s.operation = .reset ∨ s.operation = .cfgAccept ∨ s.operation = .badState101 ∨ s.operation = .badState11x) → t.err = 0) ∧
    (s.operation = .procError → ∃ k, s.passResult = some (.error k) ∧ t.err = ErrorKind.code k) ∧
    (s.operation ≠ .reset → s.operation ≠ .cfgAccept → s.operation ≠ .badState101 → s.operation ≠ .badState11x →
      s.operation ≠ .procError → t.err = s.err) ∧
    (t.pins.rst = false → t.errCode = t.err)

/-- R51: the queue is written only by RX_ACCEPT and RX_ACCEPT_FILL, at index `count`, with the word on `in_data`; every other operation
leaves every entry, or empties the queue (the drain of PROC_ERROR and PROC_DONE, R123, and RESET, R270). That an emptied queue
lists no entry is the model's reading of R52, which the spec marks derived (log entry 22). -/
def Obligations.QueueIsWrittenOnlyAtCount : Prop :=
  ∀ s t : State, s.Inv → step s = .next t →
    (s.operation = .rxAccept ∨ s.operation = .rxAcceptFill →
      Memory.read t.queue s.count = some s.pins.inData ∧ ∀ a, a ≠ s.count → Memory.read t.queue a = Memory.read s.queue a) ∧
    (s.operation = .procError ∨ s.operation = .procDone ∨ s.operation = .reset →
      ∀ a, Memory.read t.queue a = none) ∧
    (s.operation ≠ .rxAccept → s.operation ≠ .rxAcceptFill → s.operation ≠ .procError → s.operation ≠ .procDone →
      s.operation ≠ .reset → ∀ a, Memory.read t.queue a = Memory.read s.queue a)

/-- R53, its writing half: the result store is written only by PROC_DONE, at indices 0 to `nwords` - 1, and every operation that does
not discard the result leaves every entry. The rest is the model's reading: that no entry from `nwords` on holds a value after
PROC_DONE, and none at all after TX_LAST, which discards the result (log entry 22, from R52 and R65, which the spec marks derived);
and that none does after BAD_STATE, for which R215 lists six registers and no store (log entry 10). After RESET it is R37's. -/
def Obligations.ResultStoreIsWrittenOnlyByProcDone : Prop :=
  ∀ s t : State, step s = .next t →
    (s.operation = .procDone → ∀ a, (Memory.read t.result a).isSome = true ↔ a < t.nwords) ∧
    (s.operation = .txLast ∨ s.operation = .reset ∨ s.operation = .badState101 ∨ s.operation = .badState11x →
      ∀ a, Memory.read t.result a = none) ∧
    (s.operation ≠ .procDone → s.operation ≠ .txLast → s.operation ≠ .reset → s.operation ≠ .badState101 →
      s.operation ≠ .badState11x → ∀ a, Memory.read t.result a = Memory.read s.result a)

/-- Every operation that stores nothing leaves every word of both stores, and `sent` unless it transfers a word (frames of R104,
R105, R126, R185, R186, R208, R210). -/
def Obligations.OperationsThatStoreNothingKeepEveryWord : Prop :=
  ∀ (i : Instr) (s t : State),
    i ∈ [Instr.idleAdvance, .cfgHold, .cfgAccept, .rxHold, .procWait, .txHold, .txWord] → exec i s = .next t →
    (∀ a, Memory.read t.queue a = Memory.read s.queue a ∧ Memory.read t.result a = Memory.read s.result a) ∧
    t.count = s.count ∧ t.nwords = s.nwords ∧ (i ≠ .txWord → t.sent = s.sent ∧ t.idx = s.idx)

/-- The consumer receives exactly the words of the output transfers, with their end markers, in order: `sent` grows by the word
offered on a tick with an output transfer, and by nothing otherwise; the input samples are used one a tick (R59, R61; the fields
are the model's own, log entries 4 and 5). -/
def Obligations.ConsumerReceivesExactlyTheTransfers : Prop :=
  ∀ s t : State, step s = .next t →
    (s.outXfer = true → ∃ w, s.outData = .ok w ∧ t.sent = s.sent ++ [{ data := w, last := s.outLast }]) ∧
    (s.outXfer = false → t.sent = s.sent) ∧
    t.script = s.script.tail ∧ t.tick = s.tick + 1

/-- R35: the outputs are functions of the registers and `rst` alone: two machines with the same registers, stores and parameters,
and the same `rst` on this tick, show the same status outputs and the same offered word, whatever the other inputs. -/
def Obligations.OutputsDependOnRegistersAndResetOnly : Prop :=
  ∀ (s : State) (script : List Pins) (sent : List Emission) (tick : Nat),
    let s' := { s with script := script, sent := sent, tick := tick }
    s'.pins.rst = s.pins.rst →
      s'.statusOutputs = s.statusOutputs ∧ (s.outValid = true → s'.outData = s.outData)

/-- R34: `cfg_data`, `in_data` and `in_last` have no effect on a tick without their transfer. -/
def Obligations.DataInputsAreReadOnlyOnTheirTransfer : Prop :=
  ∀ (s : State) (p : Pins) (rest : List Pins) (d : CfgWord) (w : Word) (b : Bool),
    s.script = p :: rest → (s.cfgXfer = true → d = p.cfgData) → (s.inXfer = true → w = p.inData) →
    step { s with script := { p with cfgData := d, inData := w, inLast := b } :: rest } = step s

/-- While the consumer does not take the offered word, the offer is stable (R188, which the spec marks derived). -/
def Obligations.OfferedWordIsStableUntilTaken : Prop :=
  ∀ s : State, s.state = codeEmitting → s.pins.rst = false → s.pins.outReady = false →
    ∃ t, step s = .next t ∧ t.idx = s.idx ∧ t.nwords = s.nwords ∧ (∀ a, Memory.read t.result a = Memory.read s.result a) ∧
      (t.pins.rst = false → t.outValid = true ∧ t.outData = s.outData ∧ t.outLast = s.outLast)

/-- No state of one pass reaches the next: two machines of one build that wait for a configuration with the same inputs are in the
same state after CFG_ACCEPT, whatever `cfg` and `err` the passes before left (R65, which the spec marks derived). -/
def Obligations.NoStateOfOnePassReachesTheNext : Prop :=
  ∀ s s' : State, s.Inv → s'.Inv → s.state = codeAwaitCfg → s'.state = codeAwaitCfg →
    s.params = s'.params → s.script = s'.script → s.sent = s'.sent → s.tick = s'.tick →
    s.pins.rst = false → s.pins.cfgValid = true → step s = step s'

/-! ### The operations -/

/-- R208: IDLE_ADVANCE. -/
def Obligations.IdleAdvanceGoesToAwaitCfg : Prop :=
  ∀ s : State,
    (s.operation = .idleAdvance ↔ s.pins.rst = false ∧ s.state = codeIdle) ∧
    exec .idleAdvance s = .next { s with state := codeAwaitCfg } ∧
    (s.operation = .idleAdvance → s.cfgReady = false ∧ s.inReady = false ∧ s.outValid = false ∧ s.outLast ≠ some true)

/-- R104: CFG_HOLD. -/
def Obligations.CfgHoldWaitsForAConfiguration : Prop :=
  ∀ s : State,
    (s.operation = .cfgHold ↔ s.pins.rst = false ∧ s.state = codeAwaitCfg ∧ s.pins.cfgValid = false) ∧
    exec .cfgHold s = .next s ∧
    (s.operation = .cfgHold → s.cfgReady = true ∧ s.inReady = false ∧ s.cfgXfer = false ∧ s.inXfer = false)

/-- R105: CFG_ACCEPT. -/
def Obligations.CfgAcceptTakesOneConfigurationWord : Prop :=
  ∀ s : State,
    (s.operation = .cfgAccept ↔ s.pins.rst = false ∧ s.state = codeAwaitCfg ∧ s.pins.cfgValid = true) ∧
    exec .cfgAccept s = .next { s with cfg := decodeConfig s.pins.cfgData, err := 0, state := codeReceiving } ∧
    (s.operation = .cfgAccept →
      s.cfgReady = true ∧ s.cfgXfer = true ∧ s.inReady = false ∧
      ∀ t, step s = .next t → t.cfgReady = false ∧ t.errCode = 0)

/-- R126: RX_HOLD. The output clause needs the invariant (`count` < `MAX_WORDS` in `RECEIVING`). -/
def Obligations.RxHoldWaitsForADataWord : Prop :=
  ∀ s : State,
    (s.operation = .rxHold ↔ s.pins.rst = false ∧ s.state = codeReceiving ∧ s.pins.inValid = false) ∧
    exec .rxHold s = .next s ∧
    (s.operation = .rxHold → s.cfgReady = false ∧ s.cfgXfer = false ∧ (s.Inv → s.inReady = true))

/-- R127: RX_ACCEPT, in the queue's room (`count` < `MAX_WORDS`, which the invariant gives in `RECEIVING`): `Q[count]` holds
`in_data`, every other entry and register is as before, `count` is one more; `isReady` stays false; it cannot occur when `MAX_WORDS`
= 1. -/
def Obligations.RxAcceptQueuesOneWord : Prop :=
  ∀ s : State,
    (s.operation = .rxAccept ↔
      s.pins.rst = false ∧ s.state = codeReceiving ∧ s.pins.inValid = true ∧ s.count + 1 ≠ s.params.maxWords) ∧
    (s.count < s.params.maxWords → ∃ q, exec .rxAccept s = .next { s with queue := q, count := s.count + 1 } ∧
      Memory.read q s.count = some s.pins.inData ∧ ∀ a, a ≠ s.count → Memory.read q a = Memory.read s.queue a) ∧
    (s.Inv → s.operation = .rxAccept →
      s.inXfer = true ∧ s.count < s.params.maxWords ∧ 1 < s.params.maxWords ∧ ∀ t, step s = .next t → t.isReady = false)

/-- A word offered to a full queue is a defined refusal: not queued, nothing recorded in `err` or elsewhere. In `RECEIVING` this
happens only in states no run reaches (R122, R201, R247; the reading is the model's, log entry 14). -/
def Obligations.FullQueueTakesNoWord : Prop :=
  ∀ s : State, s.params.maxWords ≤ s.count → s.inReady = false ∧ s.inXfer = false ∧ exec .rxAccept s = .next s

/-- R128: RX_ACCEPT_FILL: the `MAX_WORDS`-th word is queued at index `count`, `count` is `MAX_WORDS` (`isReady` becomes true), and
`PROCESSING` begins on the next tick, where `in_ready` is 0. -/
def Obligations.RxAcceptFillStartsProcessing : Prop :=
  ∀ s : State,
    (s.params.wf → (s.operation = .rxAcceptFill ↔
      s.pins.rst = false ∧ s.state = codeReceiving ∧ s.pins.inValid = true ∧ s.count = s.params.maxWords - 1)) ∧
    (∃ q, exec .rxAcceptFill s =
        .next { s with queue := q, count := s.params.maxWords, procCnt := 0, state := codeProcessing } ∧
      Memory.read q s.count = some s.pins.inData ∧ ∀ a, a ≠ s.count → Memory.read q a = Memory.read s.queue a) ∧
    (s.operation = .rxAcceptFill →
      s.inReady = true ∧ s.inXfer = true ∧
      ∀ t, step s = .next t → t.inReady = false ∧ t.isReady = true ∧ t.state = codeProcessing)

/-- R210: PROC_WAIT. In a state with the invariant the selector's condition is `proc_cnt` < `PROC_TICKS` - 1, and the operation never
occurs with `PROC_TICKS` = 1. -/
def Obligations.ProcWaitCountsOneTick : Prop :=
  ∀ s : State,
    exec .procWait s = .next { s with procCnt := s.procCnt + 1 } ∧
    (s.Inv →
      (s.operation = .procWait ↔
        s.pins.rst = false ∧ s.state = codeProcessing ∧ s.procCnt < s.params.procTicks - 1) ∧
      (s.operation = .procWait → s.params.procTicks ≠ 1)) ∧
    (s.operation = .procWait → s.cfgReady = false ∧ s.inReady = false ∧ s.outValid = false ∧ s.outLast ≠ some true)

/-- R211: PROC_ERROR: the queue is drained, `err` gets the code of the kind `RateMatch` raises, `proc_cnt` is cleared, `IDLE`
follows; nothing else changes, no word is emitted, `err_code` shows the code from the next tick, and the kind is one of the two the
block can reach. -/
def Obligations.ProcErrorRecordsTheErrorAndDiscardsTheBatch : Prop :=
  ∀ s : State,
    (s.Inv → (s.operation = .procError ↔
      s.pins.rst = false ∧ s.state = codeProcessing ∧ s.procCnt = s.params.procTicks - 1 ∧
      ∃ k, s.passResult = some (.error k))) ∧
    (∀ k, s.passResult = some (.error k) →
      (k = .invalidParameter ∨ k = .insufficientData) ∧
      exec .procError s =
        .next { s with count := 0, queue := [], err := ErrorKind.code k, procCnt := 0, state := codeIdle }) ∧
    (s.operation = .procError → s.outValid = false ∧ ∀ t, step s = .next t →
      t.outValid = false ∧ t.sent = s.sent ∧
      ∃ k, s.passResult = some (.error k) ∧ (t.pins.rst = false → t.errCode = ErrorKind.code k))

/-- R212 with the chunker R181 it evaluates: PROC_DONE: the queue is drained; the sequence `f` that `RateMatch` returns is stored as
`ceil(len(f) / 128)` words, bit `127 - j` of word `k` being `f[128 k + j]` and 0 beyond the end; `nwords`, `idx`, `proc_cnt` and the
next state are as stated, every other register is as before. That no entry from `nwords` on holds a value, also where one did before,
is the model's reading of R52, which the spec marks derived (PROC_DONE replaces the store whole, log entry 22). -/
def Obligations.ProcDoneStoresTheChunkedResult : Prop :=
  ∀ s : State,
    (s.Inv → (s.operation = .procDone ↔
      s.pins.rst = false ∧ s.state = codeProcessing ∧ s.procCnt = s.params.procTicks - 1 ∧
      ∃ f, s.passResult = some (.sequence f))) ∧
    (∀ f, s.passResult = some (.sequence f) →
      ∃ r, exec .procDone s =
          .next { s with count := 0, queue := [], result := r, nwords := (f.length + 127) / 128, idx := 0, procCnt := 0,
                         state := if (f.length + 127) / 128 = 0 then codeIdle else codeEmitting } ∧
        (∀ k, k < (f.length + 127) / 128 → ∃ w, Memory.read r k = some w ∧
          ∀ j, j < 128 → w.getLsbD (127 - j) = f.getD (128 * k + j) false) ∧
        (∀ k, (f.length + 127) / 128 ≤ k → Memory.read r k = none)) ∧
    (s.operation = .procDone → s.cfgReady = false ∧ s.inReady = false ∧ s.outValid = false)

/-- Where PROC_ERROR and PROC_DONE stop: on a queue entry below `count` that holds no value (R52), and on the other operation's
condition (the model's fault, log entry 11), in which no tick ever executes them. `RateMatch` never sticks on the two-valued queue
(R149), so these are all. -/
def Obligations.ProcOperationsStopOnlyAsNamed : Prop :=
  ∀ s : State,
    ((∃ i, i < s.count ∧ Memory.read s.queue i = none) →
      exec .procError s = .fault (.unwrittenRead .queue) ∧ exec .procDone s = .fault (.unwrittenRead .queue)) ∧
    (∀ f, s.passResult = some (.sequence f) → exec .procError s = .fault .selectorMismatch) ∧
    (∀ k, s.passResult = some (.error k) → exec .procDone s = .fault .selectorMismatch) ∧
    ((∀ i, i < s.count → Memory.read s.queue i ≠ none) →
      (∃ k, s.passResult = some (.error k)) ∨ ∃ f, s.passResult = some (.sequence f)) ∧
    step s ≠ .fault .selectorMismatch

/-- R185: TX_HOLD. -/
def Obligations.TxHoldKeepsOfferingTheSameWord : Prop :=
  ∀ s : State,
    (s.operation = .txHold ↔ s.pins.rst = false ∧ s.state = codeEmitting ∧ s.pins.outReady = false) ∧
    exec .txHold s = .next s ∧
    (s.operation = .txHold →
      s.outValid = true ∧ s.outXfer = false ∧
      (∀ w, Memory.read s.result s.idx = some w → s.outData = .ok w) ∧
      (s.params.hasOutLast = true → s.outLast = some (s.idx + 1 == s.nwords)))

/-- R186: TX_WORD, on an offered word that holds a value: the word is transferred with `out_last` = 0, `idx` is one more, nothing else
of the block changes; it cannot occur when `nwords` = 1. R186 names no error: that an entry without a value makes it fault is the
model's (log entry 8, from R52, which the spec marks derived). -/
def Obligations.TxWordTransfersAndAdvances : Prop :=
  ∀ s : State,
    (s.operation = .txWord ↔
      s.pins.rst = false ∧ s.state = codeEmitting ∧ s.pins.outReady = true ∧ s.idx + 1 ≠ s.nwords) ∧
    (∀ w, Memory.read s.result s.idx = some w →
      exec .txWord s =
        .next { s with idx := s.idx + 1, sent := s.sent ++ [{ data := w, last := s.outLast }] }) ∧
    (Memory.read s.result s.idx = none → exec .txWord s = .fault (.unwrittenRead .result)) ∧
    (s.operation = .txWord →
      s.outXfer = true ∧ (s.params.hasOutLast = true → s.outLast = some false) ∧ (s.Inv → s.nwords ≠ 1) ∧
      ∀ w, Memory.read s.result s.idx = some w → s.outData = .ok w)

/-- R187: TX_LAST, on an offered word that holds a value: the word is transferred with `out_last` = 1 and the pass ends: `idx` and
`nwords` are 0, the result is discarded, `IDLE` follows, nothing else of the block changes; `out_valid` is 0 from the next tick. R187
names no error: that an entry without a value makes it fault is the model's (log entry 8, from R52, which the spec marks derived),
and so is that no entry holds a value afterwards (log entry 22). -/
def Obligations.TxLastTransfersAndEndsThePass : Prop :=
  ∀ s : State,
    (s.operation = .txLast ↔
      s.pins.rst = false ∧ s.state = codeEmitting ∧ s.pins.outReady = true ∧ s.idx + 1 = s.nwords) ∧
    (∀ w, Memory.read s.result s.idx = some w →
      ∃ r, exec .txLast s =
          .next { s with idx := 0, nwords := 0, result := r, state := codeIdle,
                         sent := s.sent ++ [{ data := w, last := s.outLast }] } ∧
        ∀ a, Memory.read r a = none) ∧
    (Memory.read s.result s.idx = none → exec .txLast s = .fault (.unwrittenRead .result)) ∧
    (s.operation = .txLast →
      s.outXfer = true ∧ (s.params.hasOutLast = true → s.outLast = some true) ∧
      (∀ w, Memory.read s.result s.idx = some w → s.outData = .ok w) ∧
      ∀ t, step s = .next t → t.outValid = false)

/-- R215: BAD_STATE, both rows: on the codes 101, 110 and 111 without reset the block makes the register writes of RESET. R215 lists
the six control registers: that no entry of a store holds a value afterwards, as after RESET, is the model's (log entry 10). -/
def Obligations.BadStateRecoversToIdle : Prop :=
  ∀ s : State,
    (s.operation = .badState101 ↔ s.pins.rst = false ∧ s.state = 0b101#3) ∧
    (s.operation = .badState11x ↔ s.pins.rst = false ∧ (s.state = 0b110#3 ∨ s.state = 0b111#3)) ∧
    (∀ i, i = Instr.badState101 ∨ i = Instr.badState11x → ∃ t, exec i s = .next t ∧
      t.state = codeIdle ∧ t.count = 0 ∧ t.procCnt = 0 ∧ t.nwords = 0 ∧ t.idx = 0 ∧ t.err = 0 ∧
      (∀ a, Memory.read t.queue a = none ∧ Memory.read t.result a = none) ∧
      t.params = s.params ∧ t.script = s.script ∧ t.sent = s.sent ∧ t.tick = s.tick) ∧
    (s.operation = .badState101 ∨ s.operation = .badState11x →
      s.cfgReady = false ∧ s.inReady = false ∧ s.outValid = false ∧ s.outLast ≠ some true)

/-! ### The rate-matching function -/

/-- R55 and the drain of R123: the sequence the drain returns from `count` queued words has length 128 · `count`, and its element
128 · i + j is bit 127 - j of `Q[i]`. -/
def Obligations.DrainConcatenatesWordsMsbFirst : Prop :=
  ∀ (s : State) (ws : List Word), s.queue = Memory.ofWords ws → s.count = ws.length →
    ∃ b, s.drainBits = some b ∧ b.length = 128 * s.count ∧
      ∀ i j (w : Word), j < 128 → Memory.read s.queue i = some w →
        b[128 * i + j]? = some (if w.getLsbD (127 - j) then .one else .zero)

/-- R141, R142, R143 and R144 (steps 2 and 3): `Ncb`; the base graph, which is 1 exactly on 66 times one of the 51 lifting sizes, here
written out as R143 prints them (its list of the products, which it marks derived, follows); and `Zc`. -/
def Obligations.BufferSizeBaseGraphAndLiftingSize : Prop :=
  ∀ inlen nref : Nat,
    let lift : List Nat :=
      [2, 3, 4, 5, 6, 7, 8, 9, 10, 11, 12, 13, 14, 15, 16, 18, 20, 22, 24, 26, 28, 30, 32, 36, 40, 44, 48, 52, 56, 60, 64,
       72, 80, 88, 96, 104, 112, 120, 128, 144, 160, 176, 192, 208, 224, 240, 256, 288, 320, 352, 384]
    softBufferSize inlen 0 = inlen ∧ (nref ≠ 0 → softBufferSize inlen nref = min inlen nref) ∧
    (baseGraph inlen = .bg1 ↔ ∃ z ∈ lift, inlen = 66 * z) ∧
    (baseGraph inlen = .bg2 ↔ ¬ ∃ z ∈ lift, inlen = 66 * z) ∧
    liftingSize inlen = inlen / (if baseGraph inlen = .bg1 then 66 else 50) ∧
    (∀ z ∈ lift, liftingSize (66 * z) = z)

/-- R145: the starting offset, with the floor of the exact rational `K · Ncb / inlen`: `k0` is `Zc` times the one natural `q` with
`q · inlen <= K · Ncb < (q + 1) · inlen`; `rv` = 0 gives 0. -/
def Obligations.StartOffsetIsTheFloorOfTheExactRational : Prop :=
  ∀ (inlen nref q k : Nat) (rv : BitVec 2), 0 < inlen →
    (rv = 0#2 → k = 0) →
    (rv = 1#2 → k = if baseGraph inlen = .bg1 then 17 else 13) →
    (rv = 2#2 → k = if baseGraph inlen = .bg1 then 33 else 25) →
    (rv = 3#2 → k = if baseGraph inlen = .bg1 then 56 else 43) →
    q * inlen ≤ k * softBufferSize inlen nref → k * softBufferSize inlen nref < (q + 1) * inlen →
    startOffset inlen nref rv = q * liftingSize inlen ∧ startOffset inlen nref 0#2 = 0

/-- R147: the output length under each `E_MODE`. The floor form is the largest multiple of `NQ` not above `outlen`, the ceiling form
the smallest not below it; `LITERAL` takes the floor form exactly when `outlen` < `NQ`, `MOD_EQUIV` gives the ceiling form for every
`outlen`. -/
def Obligations.OutputLengthUnderEachMode : Prop :=
  ∀ outlen nq : Nat, 0 < nq →
    (∀ e, outputLength .floor outlen nq = e ↔ nq ∣ e ∧ e ≤ outlen ∧ outlen < e + nq) ∧
    (∀ e, outputLength .modEquiv outlen nq = e ↔ nq ∣ e ∧ outlen ≤ e ∧ e < outlen + nq) ∧
    (outlen < nq → outputLength .literal outlen nq = 0) ∧
    (nq ≤ outlen → outputLength .literal outlen nq = outputLength .modEquiv outlen nq)

/-- `E` is a multiple of `nlayers · Qm` and of `Qm` under every mode, so that check 5 never fires (R148), and the values of R158 stay
in their ranges (both are marked derived by the spec). -/
def Obligations.DerivedQuantitiesStayInRange : Prop :=
  ∀ (c : RateMatchConfig) (mode : EMode), c.inlen ≠ 0 → c.nlayers.toNat * c.qm.toNat ≠ 0 →
    let nq := c.nlayers.toNat * c.qm.toNat
    let ncb := softBufferSize c.inlen.toNat c.nref.toNat
    let e := outputLength mode c.outlen.toNat nq
    nq ∣ e ∧ e % c.qm.toNat = 0 ∧ 1 ≤ ncb ∧ ncb ≤ c.inlen.toNat ∧ nq ≤ 105 ∧
    e ≤ (if mode = .floor then 65535 else 65625) ∧
    liftingSize c.inlen.toNat ≤ 1310 ∧ startOffset c.inlen.toNat c.nref.toNat c.rv ≤ 56330

/-- R150: bit selection collects the elements at positions `(k0 + j) mod Ncb`, `j` = 0, 1, 2, …, skipping fillers, until `E` bits
are there: a result is `E` bits long and is the non-filler part of some first `n` positions, and every such list is the result. -/
def Obligations.SelectionCollectsTheBitsInOrder : Prop :=
  ∀ (input : List TriBit) (ncb k0 e : Nat) (bits : List Bool), 0 < ncb → ncb ≤ input.length →
    (select input ncb k0 e = some bits ↔
      bits.length = e ∧
      ∃ n, bits = (List.range n).filterMap fun j => (input[(k0 + j) % ncb]?).bind TriBit.toBool?)

/-- R151: bit selection has no result exactly when bits are asked for and every position of the buffer is a filler. (R151 states that
it has none there; that it has one everywhere else is R150.) -/
def Obligations.SelectionSticksExactlyOnAllFiller : Prop :=
  ∀ (input : List TriBit) (ncb k0 e : Nat), 0 < ncb → ncb ≤ input.length →
    (select input ncb k0 e = none ↔ 0 < e ∧ ∀ p, p < ncb → input[p]? = some .filler)

/-- R153: the interleaver: a length that is no multiple of `Qm` is INVALID_PARAMETER; otherwise the output has the same length and
position `i · Qm + j` is fed by `e[j · rows + i]`. -/
def Obligations.InterleaverTransposesColumnsToRows : Prop :=
  ∀ (e : List Bool) (qm : Nat), 0 < qm →
    (e.length % qm ≠ 0 → interleave e qm = .error .invalidParameter) ∧
    (e.length % qm = 0 → ∃ f, interleave e qm = .ok f ∧ f.length = e.length ∧
      ∀ i j, i < e.length / qm → j < qm → f[i * qm + j]? = e[j * (e.length / qm) + i]?)

/-- R154: the interleaver is a permutation, and the inverse permutation restores the order before it. -/
def Obligations.InterleaverIsAnInvertiblePermutation : Prop :=
  ∀ (e f : List Bool) (qm : Nat), 0 < qm → interleave e qm = .ok f → f.Perm e ∧ deinterleave f qm = e

/-- R159: the error conditions in their order, on any sequence; past them the result is no error, because checks 3 and 5 never fire
(R157 and R148, both of which the spec marks derived). -/
def Obligations.RateMatchChecksComeInOrder : Prop :=
  ∀ (mode : EMode) (b : List TriBit) (c : RateMatchConfig),
    (c.inlen = 0 → rateMatch mode b c = .error .invalidParameter) ∧
    (c.inlen ≠ 0 → b.length < c.inlen.toNat → rateMatch mode b c = .error .insufficientData) ∧
    (c.inlen ≠ 0 → c.inlen.toNat ≤ b.length → c.nlayers.toNat * c.qm.toNat = 0 →
      rateMatch mode b c = .error .invalidParameter) ∧
    (c.inlen ≠ 0 → c.inlen.toNat ≤ b.length → c.nlayers.toNat * c.qm.toNat ≠ 0 → ∀ k, rateMatch mode b c ≠ .error k)

/-- The whole function in closed form where no filler is read (R155 with R152, which the spec marks derived): past the checks the
output has length `E`, and its bit `i · Qm + j` is the input bit at `(k0 + j · rows + i) mod Ncb`. -/
def Obligations.RateMatchOutputBitByBit : Prop :=
  ∀ (mode : EMode) (b : List TriBit) (c : RateMatchConfig),
    c.inlen ≠ 0 → c.inlen.toNat ≤ b.length → c.nlayers.toNat * c.qm.toNat ≠ 0 →
    let ncb := softBufferSize c.inlen.toNat c.nref.toNat
    let k0 := startOffset c.inlen.toNat c.nref.toNat c.rv
    let e := outputLength mode c.outlen.toNat (c.nlayers.toNat * c.qm.toNat)
    let rows := e / c.qm.toNat
    (∀ p, p < ncb → b[p]? ≠ some .filler) →
    ∃ f, rateMatch mode b c = .sequence f ∧ f.length = e ∧
      ∀ i j, i < rows → j < c.qm.toNat →
        f[i * c.qm.toNat + j]? = (b[(k0 + j * rows + i) % ncb]?).bind TriBit.toBool?

/-- R156: `RateMatch` depends on the first `Ncb` elements of the sequence only (and on `c` and `E_MODE`): two sequences, neither
shorter than `inlen`, that agree there give the same result. -/
def Obligations.RateMatchReadsOnlyTheCircularBuffer : Prop :=
  ∀ (mode : EMode) (b b' : List TriBit) (c : RateMatchConfig),
    c.inlen.toNat ≤ b.length → c.inlen.toNat ≤ b'.length →
    b.take (softBufferSize c.inlen.toNat c.nref.toNat) = b'.take (softBufferSize c.inlen.toNat c.nref.toNat) →
    rateMatch mode b c = rateMatch mode b' c

/-- Which error a pass of the block reports (R242, R243, which the spec marks derived): exactly the two kinds, under exactly these
conditions, and a sequence otherwise. -/
def Obligations.PassErrorIsDeterminedByTheConfiguration : Prop :=
  ∀ s : State, s.Inv → s.state = codeProcessing →
    (s.passResult = some (.error .invalidParameter) ↔
      s.cfg.inlen = 0 ∨
      (1 ≤ s.cfg.inlen.toNat ∧ s.cfg.inlen.toNat ≤ 128 * s.params.maxWords ∧ s.cfg.nlayers.toNat * s.cfg.qm.toNat = 0)) ∧
    (s.passResult = some (.error .insufficientData) ↔
      1 ≤ s.cfg.inlen.toNat ∧ 128 * s.params.maxWords < s.cfg.inlen.toNat) ∧
    ((∃ f, s.passResult = some (.sequence f)) ↔
      1 ≤ s.cfg.inlen.toNat ∧ s.cfg.inlen.toNat ≤ 128 * s.params.maxWords ∧ s.cfg.nlayers.toNat * s.cfg.qm.toNat ≠ 0)

/-! ### Chunking -/

/-- R182: concatenating the chunker's words, most significant bit first, gives the sequence followed by the padding zeros alone. -/
def Obligations.ChunkedWordsReproduceTheSequence : Prop :=
  ∀ f : List Bool,
    (chunk f).length = (f.length + 127) / 128 ∧
    assembled (chunk f) = f.map TriBit.ofBool ++ List.replicate (128 * ((f.length + 127) / 128) - f.length) TriBit.zero

/-- R56: `chunk` undoes the drain's concatenation: on the bits of any words it gives the words back. -/
def Obligations.ChunkUndoesConcatenation : Prop :=
  ∀ (ws : List Word) (f : List Bool), assembled ws = f.map TriBit.ofBool → chunk f = ws

/-! ### Whole passes, for every build, configuration and data -/

/-- A pass that succeeds (R282, R61, R183, R290, which the spec marks derived in part): from `AWAIT_CFG`, with a configuration word,
`MAX_WORDS` data words, `PROC_TICKS` ticks and a ready consumer for `nwords` ticks, none with reset, the block is in `IDLE` after
`1 + MAX_WORDS + PROC_TICKS + nwords` ticks, and the consumer has received exactly the chunked result of `RateMatch` on the
configuration and the data of this pass, the last word marked. -/
def Obligations.SuccessfulPassDeliversTheRateMatchedBatch : Prop :=
  ∀ (s : State) (pc : Pins) (ds ps es rest : List Pins) (f : List Bool),
    s.Inv → s.state = codeAwaitCfg → s.script = pc :: (ds ++ ps ++ es ++ rest) →
    pc.rst = false → pc.cfgValid = true →
    ds.length = s.params.maxWords → (∀ p ∈ ds, p.rst = false ∧ p.inValid = true) →
    ps.length = s.params.procTicks → (∀ p ∈ ps, p.rst = false) →
    rateMatch s.params.eMode (assembled (ds.map Pins.inData)) (decodeConfig pc.cfgData) = .sequence f →
    es.length = (f.length + 127) / 128 → (∀ p ∈ es, p.rst = false ∧ p.outReady = true) →
    ∃ t, Host.Core.run Sys2Proof.core (1 + s.params.maxWords + s.params.procTicks + (f.length + 127) / 128) s = .next t ∧
      t.state = codeIdle ∧ t.err = 0 ∧ t.sent = s.sent ++ marked s.params (chunk f) ∧ t.script = rest ∧ t.Inv

/-- A pass that fails (R246, R214, R286): the same pass where `RateMatch` raises an error ends in `IDLE` after
`1 + MAX_WORDS + PROC_TICKS` ticks with the code of the error in `err`; the consumer has received nothing. -/
def Obligations.FailedPassDeliversNothing : Prop :=
  ∀ (s : State) (pc : Pins) (ds ps rest : List Pins) (k : ErrorKind),
    s.Inv → s.state = codeAwaitCfg → s.script = pc :: (ds ++ ps ++ rest) →
    pc.rst = false → pc.cfgValid = true →
    ds.length = s.params.maxWords → (∀ p ∈ ds, p.rst = false ∧ p.inValid = true) →
    ps.length = s.params.procTicks → (∀ p ∈ ps, p.rst = false) →
    rateMatch s.params.eMode (assembled (ds.map Pins.inData)) (decodeConfig pc.cfgData) = .error k →
    ∃ t, Host.Core.run Sys2Proof.core (1 + s.params.maxWords + s.params.procTicks) s = .next t ∧
      t.state = codeIdle ∧ t.err = ErrorKind.code k ∧ t.sent = s.sent ∧ t.script = rest ∧ t.Inv

/-- Emission follows the consumer (R61, R185, R186; C6): over any ticks without reset on which the consumer is ready fewer times than
words are left, the words leave in index order, one on every ready tick, and the block stays in `EMITTING`. -/
def Obligations.EmissionFollowsTheReadyTicks : Prop :=
  ∀ (s : State) (es rest : List Pins) (ws : List Word),
    s.Inv → s.state = codeEmitting → s.script = es ++ rest → (∀ p ∈ es, p.rst = false) →
    s.result = Memory.ofWords ws → s.idx + es.countP Pins.outReady < s.nwords →
    ∃ t, Host.Core.run Sys2Proof.core es.length s = .next t ∧
      t.state = codeEmitting ∧ t.idx = s.idx + es.countP Pins.outReady ∧ t.result = s.result ∧ t.nwords = s.nwords ∧
      t.sent = s.sent ++ ((marked s.params ws).drop s.idx).take (es.countP Pins.outReady)

/-- The producers of the stimulus notation (R84): valid with the head of its list at every tick (the data producer but at its hold
ticks), the head removed exactly on a transfer. -/
def Obligations.StimulusProducersHoldUntilTransfer : Prop :=
  ∀ (u : Stimulus) (t : Nat) (s : State), s.script = [stimulusPins u t] →
    (∀ d l, u.cfgs = d :: l →
      s.pins.cfgValid = true ∧ s.pins.cfgData = d ∧
      (stimulusNext u s).cfgs = if s.cfgReady then l else d :: l) ∧
    (∀ d l, u.datas = d :: l → t ∉ u.holds →
      s.pins.inValid = true ∧ s.pins.inData = d ∧
      (stimulusNext u s).datas = if s.inReady then l else d :: l) ∧
    (t ∈ u.holds → s.pins.inValid = false ∧ (stimulusNext u s).datas = u.datas) ∧
    (u.cfgs = [] → s.pins.cfgValid = false) ∧ (u.datas = [] → s.pins.inValid = false) ∧
    (s.pins.rst = true ↔ t ∈ u.rstTicks) ∧ (s.pins.outReady = false ↔ t ∈ u.stalls)
end

