-- ==== Sys2Proof/Laws/State.lean ====
section
/-! SUPPORT. One lemma per field per named update of the state: what each update writes, and that it leaves every other field. -/

namespace Sys2Proof.Machine

open Sys2Proof

/-! ### State.emptyQueue -/

@[simp] theorem State.emptyQueue_params (s : State) : (State.emptyQueue s).params = s.params := rfl
@[simp] theorem State.emptyQueue_state (s : State) : (State.emptyQueue s).state = s.state := rfl
@[simp] theorem State.emptyQueue_cfg (s : State) : (State.emptyQueue s).cfg = s.cfg := rfl
@[simp] theorem State.emptyQueue_count (s : State) : (State.emptyQueue s).count = 0 := rfl
@[simp] theorem State.emptyQueue_queue (s : State) : (State.emptyQueue s).queue = [] := rfl
@[simp] theorem State.emptyQueue_procCnt (s : State) : (State.emptyQueue s).procCnt = s.procCnt := rfl
@[simp] theorem State.emptyQueue_result (s : State) : (State.emptyQueue s).result = s.result := rfl
@[simp] theorem State.emptyQueue_nwords (s : State) : (State.emptyQueue s).nwords = s.nwords := rfl
@[simp] theorem State.emptyQueue_idx (s : State) : (State.emptyQueue s).idx = s.idx := rfl
@[simp] theorem State.emptyQueue_err (s : State) : (State.emptyQueue s).err = s.err := rfl
@[simp] theorem State.emptyQueue_script (s : State) : (State.emptyQueue s).script = s.script := rfl
@[simp] theorem State.emptyQueue_sent (s : State) : (State.emptyQueue s).sent = s.sent := rfl
@[simp] theorem State.emptyQueue_tick (s : State) : (State.emptyQueue s).tick = s.tick := rfl

/-! ### State.takeError -/

@[simp] theorem State.takeError_params (k : ErrorKind) (s : State) : (State.takeError k s).params = s.params := rfl
@[simp] theorem State.takeError_state (k : ErrorKind) (s : State) : (State.takeError k s).state = codeIdle := rfl
@[simp] theorem State.takeError_cfg (k : ErrorKind) (s : State) : (State.takeError k s).cfg = s.cfg := rfl
@[simp] theorem State.takeError_count (k : ErrorKind) (s : State) : (State.takeError k s).count = 0 := rfl
@[simp] theorem State.takeError_queue (k : ErrorKind) (s : State) : (State.takeError k s).queue = [] := rfl
@[simp] theorem State.takeError_procCnt (k : ErrorKind) (s : State) : (State.takeError k s).procCnt = 0 := rfl
@[simp] theorem State.takeError_result (k : ErrorKind) (s : State) : (State.takeError k s).result = s.result := rfl
@[simp] theorem State.takeError_nwords (k : ErrorKind) (s : State) : (State.takeError k s).nwords = s.nwords := rfl
@[simp] theorem State.takeError_idx (k : ErrorKind) (s : State) : (State.takeError k s).idx = s.idx := rfl
@[simp] theorem State.takeError_err (k : ErrorKind) (s : State) : (State.takeError k s).err = ErrorKind.code k := rfl
@[simp] theorem State.takeError_script (k : ErrorKind) (s : State) : (State.takeError k s).script = s.script := rfl
@[simp] theorem State.takeError_sent (k : ErrorKind) (s : State) : (State.takeError k s).sent = s.sent := rfl
@[simp] theorem State.takeError_tick (k : ErrorKind) (s : State) : (State.takeError k s).tick = s.tick := rfl

/-! ### State.clearAll -/

@[simp] theorem State.clearAll_params (s : State) : (State.clearAll s).params = s.params := rfl
@[simp] theorem State.clearAll_state (s : State) : (State.clearAll s).state = codeIdle := rfl
@[simp] theorem State.clearAll_cfg (s : State) : (State.clearAll s).cfg = Config.freeCfg s.tick := rfl
@[simp] theorem State.clearAll_count (s : State) : (State.clearAll s).count = 0 := rfl
@[simp] theorem State.clearAll_queue (s : State) : (State.clearAll s).queue = [] := rfl
@[simp] theorem State.clearAll_procCnt (s : State) : (State.clearAll s).procCnt = 0 := rfl
@[simp] theorem State.clearAll_result (s : State) : (State.clearAll s).result = [] := rfl
@[simp] theorem State.clearAll_nwords (s : State) : (State.clearAll s).nwords = 0 := rfl
@[simp] theorem State.clearAll_idx (s : State) : (State.clearAll s).idx = 0 := rfl
@[simp] theorem State.clearAll_err (s : State) : (State.clearAll s).err = errNone := rfl
@[simp] theorem State.clearAll_script (s : State) : (State.clearAll s).script = s.script := rfl
@[simp] theorem State.clearAll_sent (s : State) : (State.clearAll s).sent = s.sent := rfl
@[simp] theorem State.clearAll_tick (s : State) : (State.clearAll s).tick = s.tick := rfl

/-! ### State.endTick -/

@[simp] theorem State.endTick_params (s : State) : (State.endTick s).params = s.params := rfl
@[simp] theorem State.endTick_state (s : State) : (State.endTick s).state = s.state := rfl
@[simp] theorem State.endTick_cfg (s : State) : (State.endTick s).cfg = s.cfg := rfl
@[simp] theorem State.endTick_count (s : State) : (State.endTick s).count = s.count := rfl
@[simp] theorem State.endTick_queue (s : State) : (State.endTick s).queue = s.queue := rfl
@[simp] theorem State.endTick_procCnt (s : State) : (State.endTick s).procCnt = s.procCnt := rfl
@[simp] theorem State.endTick_result (s : State) : (State.endTick s).result = s.result := rfl
@[simp] theorem State.endTick_nwords (s : State) : (State.endTick s).nwords = s.nwords := rfl
@[simp] theorem State.endTick_idx (s : State) : (State.endTick s).idx = s.idx := rfl
@[simp] theorem State.endTick_err (s : State) : (State.endTick s).err = s.err := rfl
@[simp] theorem State.endTick_script (s : State) : (State.endTick s).script = s.script.tail := rfl
@[simp] theorem State.endTick_sent (s : State) : (State.endTick s).sent = s.sent := rfl
@[simp] theorem State.endTick_tick (s : State) : (State.endTick s).tick = s.tick + 1 := rfl

/-! ### State.emit -/

@[simp] theorem State.emit_params (w : Word) (s : State) : (State.emit w s).params = s.params := rfl
@[simp] theorem State.emit_state (w : Word) (s : State) : (State.emit w s).state = s.state := rfl
@[simp] theorem State.emit_cfg (w : Word) (s : State) : (State.emit w s).cfg = s.cfg := rfl
@[simp] theorem State.emit_count (w : Word) (s : State) : (State.emit w s).count = s.count := rfl
@[simp] theorem State.emit_queue (w : Word) (s : State) : (State.emit w s).queue = s.queue := rfl
@[simp] theorem State.emit_procCnt (w : Word) (s : State) : (State.emit w s).procCnt = s.procCnt := rfl
@[simp] theorem State.emit_result (w : Word) (s : State) : (State.emit w s).result = s.result := rfl
@[simp] theorem State.emit_nwords (w : Word) (s : State) : (State.emit w s).nwords = s.nwords := rfl
@[simp] theorem State.emit_idx (w : Word) (s : State) : (State.emit w s).idx = s.idx := rfl
@[simp] theorem State.emit_err (w : Word) (s : State) : (State.emit w s).err = s.err := rfl
@[simp] theorem State.emit_script (w : Word) (s : State) : (State.emit w s).script = s.script := rfl
@[simp] theorem State.emit_sent (w : Word) (s : State) :
    (State.emit w s).sent = s.sent ++ [{ data := w, last := s.outLast }] := rfl
@[simp] theorem State.emit_tick (w : Word) (s : State) : (State.emit w s).tick = s.tick := rfl

/-! ### State.storeResult -/

@[simp] theorem State.storeResult_params (f : List Bool) (s : State) : (State.storeResult f s).params = s.params := rfl
@[simp] theorem State.storeResult_state (f : List Bool) (s : State) :
    (State.storeResult f s).state = if chunkCount f.length = 0 then codeIdle else codeEmitting := rfl
@[simp] theorem State.storeResult_cfg (f : List Bool) (s : State) : (State.storeResult f s).cfg = s.cfg := rfl
@[simp] theorem State.storeResult_count (f : List Bool) (s : State) : (State.storeResult f s).count = 0 := rfl
@[simp] theorem State.storeResult_queue (f : List Bool) (s : State) : (State.storeResult f s).queue = [] := rfl
@[simp] theorem State.storeResult_procCnt (f : List Bool) (s : State) : (State.storeResult f s).procCnt = 0 := rfl
@[simp] theorem State.storeResult_result (f : List Bool) (s : State) :
    (State.storeResult f s).result = Memory.ofWords (chunk f) := rfl
@[simp] theorem State.storeResult_nwords (f : List Bool) (s : State) :
    (State.storeResult f s).nwords = chunkCount f.length := rfl
@[simp] theorem State.storeResult_idx (f : List Bool) (s : State) : (State.storeResult f s).idx = 0 := rfl
@[simp] theorem State.storeResult_err (f : List Bool) (s : State) : (State.storeResult f s).err = s.err := rfl
@[simp] theorem State.storeResult_script (f : List Bool) (s : State) : (State.storeResult f s).script = s.script := rfl
@[simp] theorem State.storeResult_sent (f : List Bool) (s : State) : (State.storeResult f s).sent = s.sent := rfl
@[simp] theorem State.storeResult_tick (f : List Bool) (s : State) : (State.storeResult f s).tick = s.tick := rfl

/-! ### The state codes are distinct (R78) -/

@[simp] theorem codeIdle_ne_codeAwaitCfg : ¬ codeIdle = codeAwaitCfg := by decide
@[simp] theorem codeIdle_ne_codeReceiving : ¬ codeIdle = codeReceiving := by decide
@[simp] theorem codeIdle_ne_codeProcessing : ¬ codeIdle = codeProcessing := by decide
@[simp] theorem codeIdle_ne_codeEmitting : ¬ codeIdle = codeEmitting := by decide
@[simp] theorem codeAwaitCfg_ne_codeIdle : ¬ codeAwaitCfg = codeIdle := by decide
@[simp] theorem codeAwaitCfg_ne_codeReceiving : ¬ codeAwaitCfg = codeReceiving := by decide
@[simp] theorem codeAwaitCfg_ne_codeProcessing : ¬ codeAwaitCfg = codeProcessing := by decide
@[simp] theorem codeAwaitCfg_ne_codeEmitting : ¬ codeAwaitCfg = codeEmitting := by decide
@[simp] theorem codeReceiving_ne_codeIdle : ¬ codeReceiving = codeIdle := by decide
@[simp] theorem codeReceiving_ne_codeAwaitCfg : ¬ codeReceiving = codeAwaitCfg := by decide
@[simp] theorem codeReceiving_ne_codeProcessing : ¬ codeReceiving = codeProcessing := by decide
@[simp] theorem codeReceiving_ne_codeEmitting : ¬ codeReceiving = codeEmitting := by decide
@[simp] theorem codeProcessing_ne_codeIdle : ¬ codeProcessing = codeIdle := by decide
@[simp] theorem codeProcessing_ne_codeAwaitCfg : ¬ codeProcessing = codeAwaitCfg := by decide
@[simp] theorem codeProcessing_ne_codeReceiving : ¬ codeProcessing = codeReceiving := by decide
@[simp] theorem codeProcessing_ne_codeEmitting : ¬ codeProcessing = codeEmitting := by decide
@[simp] theorem codeEmitting_ne_codeIdle : ¬ codeEmitting = codeIdle := by decide
@[simp] theorem codeEmitting_ne_codeAwaitCfg : ¬ codeEmitting = codeAwaitCfg := by decide
@[simp] theorem codeEmitting_ne_codeReceiving : ¬ codeEmitting = codeReceiving := by decide
@[simp] theorem codeEmitting_ne_codeProcessing : ¬ codeEmitting = codeProcessing := by decide
@[simp] theorem codeIdle_ne_illegal5 : ¬ codeIdle = 5#3 := by decide
@[simp] theorem illegal5_ne_codeIdle : ¬ 5#3 = codeIdle := by decide
@[simp] theorem codeAwaitCfg_ne_illegal5 : ¬ codeAwaitCfg = 5#3 := by decide
@[simp] theorem illegal5_ne_codeAwaitCfg : ¬ 5#3 = codeAwaitCfg := by decide
@[simp] theorem codeReceiving_ne_illegal5 : ¬ codeReceiving = 5#3 := by decide
@[simp] theorem illegal5_ne_codeReceiving : ¬ 5#3 = codeReceiving := by decide
@[simp] theorem codeProcessing_ne_illegal5 : ¬ codeProcessing = 5#3 := by decide
@[simp] theorem illegal5_ne_codeProcessing : ¬ 5#3 = codeProcessing := by decide
@[simp] theorem codeEmitting_ne_illegal5 : ¬ codeEmitting = 5#3 := by decide
@[simp] theorem illegal5_ne_codeEmitting : ¬ 5#3 = codeEmitting := by decide
@[simp] theorem codeIdle_ne_illegal6 : ¬ codeIdle = 6#3 := by decide
@[simp] theorem illegal6_ne_codeIdle : ¬ 6#3 = codeIdle := by decide
@[simp] theorem codeAwaitCfg_ne_illegal6 : ¬ codeAwaitCfg = 6#3 := by decide
@[simp] theorem illegal6_ne_codeAwaitCfg : ¬ 6#3 = codeAwaitCfg := by decide
@[simp] theorem codeReceiving_ne_illegal6 : ¬ codeReceiving = 6#3 := by decide
@[simp] theorem illegal6_ne_codeReceiving : ¬ 6#3 = codeReceiving := by decide
@[simp] theorem codeProcessing_ne_illegal6 : ¬ codeProcessing = 6#3 := by decide
@[simp] theorem illegal6_ne_codeProcessing : ¬ 6#3 = codeProcessing := by decide
@[simp] theorem codeEmitting_ne_illegal6 : ¬ codeEmitting = 6#3 := by decide
@[simp] theorem illegal6_ne_codeEmitting : ¬ 6#3 = codeEmitting := by decide
@[simp] theorem codeIdle_ne_illegal7 : ¬ codeIdle = 7#3 := by decide
@[simp] theorem illegal7_ne_codeIdle : ¬ 7#3 = codeIdle := by decide
@[simp] theorem codeAwaitCfg_ne_illegal7 : ¬ codeAwaitCfg = 7#3 := by decide
@[simp] theorem illegal7_ne_codeAwaitCfg : ¬ 7#3 = codeAwaitCfg := by decide
@[simp] theorem codeReceiving_ne_illegal7 : ¬ codeReceiving = 7#3 := by decide
@[simp] theorem illegal7_ne_codeReceiving : ¬ 7#3 = codeReceiving := by decide
@[simp] theorem codeProcessing_ne_illegal7 : ¬ codeProcessing = 7#3 := by decide
@[simp] theorem illegal7_ne_codeProcessing : ¬ 7#3 = codeProcessing := by decide
@[simp] theorem codeEmitting_ne_illegal7 : ¬ codeEmitting = 7#3 := by decide
@[simp] theorem illegal7_ne_codeEmitting : ¬ 7#3 = codeEmitting := by decide

end Sys2Proof.Machine
end

