-- ==== Sys2Proof/Laws/Ops.lean ====
section
/-! SUPPORT. What the operations over the word stores do: each lemma says once all an operation does, for later proofs to cite. -/

namespace Sys2Proof.Machine

open Sys2Proof

/-! ### MemRead and MemWrite -/

@[simp] theorem Memory.read_nil (i : Nat) : Memory.read [] i = none := rfl

theorem Memory.read_cons (a : Nat) (w : Word) (m : Memory) (i : Nat) :
    Memory.read ((a, w) :: m) i = if a = i then some w else Memory.read m i := rfl

theorem Memory.read_none_of_lt (m : Memory) (a : Nat) (h : ∀ p ∈ m, a < p.1) : Memory.read m a = none := by
  induction m with
  | nil => rfl
  | cons p m ih =>
    obtain ⟨b, w⟩ := p
    have hb : a < b := h (b, w) (by simp)
    rw [Memory.read_cons, if_neg (by omega)]
    exact ih fun p hp => h p (by simp [hp])

/-- A read after a write to the same index gives the word written, in any store. -/
theorem Memory.read_write_same (m : Memory) (i : Nat) (v : Word) : Memory.read (Memory.write m i v) i = some v := by
  induction m with
  | nil => simp [Memory.write, Memory.read]
  | cons p m ih =>
    obtain ⟨a, w⟩ := p
    simp only [Memory.write]
    split
    · simp [Memory.read]
    · split
      · simp [Memory.read]
      · rw [Memory.read_cons, if_neg (by omega), ih]

/-- A write leaves every other index of any store alone. -/
theorem Memory.read_write_other (m : Memory) (i j : Nat) (v : Word) (h : j ≠ i) :
    Memory.read (Memory.write m i v) j = Memory.read m j := by
  induction m with
  | nil => simp [Memory.write, Memory.read, Ne.symm h]
  | cons p m ih =>
    obtain ⟨a, w⟩ := p
    simp only [Memory.write]
    split
    · rw [Memory.read_cons, if_neg (Ne.symm h)]
    · split
      · rename_i _ e
        subst e
        rw [Memory.read_cons, Memory.read_cons, if_neg (Ne.symm h), if_neg (Ne.symm h)]
      · rw [Memory.read_cons, Memory.read_cons, ih]

theorem Memory.mem_write_index (m : Memory) (i : Nat) (v : Word) (a : Nat)
    (h : a ∈ (Memory.write m i v).map Prod.fst) : a = i ∨ a ∈ m.map Prod.fst := by
  induction m with
  | nil => simpa [Memory.write] using h
  | cons p m ih =>
    obtain ⟨b, w⟩ := p
    simp only [Memory.write] at h
    split at h
    · simpa using h
    · split at h
      · rename_i _ e
        subst e
        simp only [List.map_cons, List.mem_cons] at h ⊢
        exact h.imp_right .inr
      · simp only [List.map_cons, List.mem_cons] at h ⊢
        rcases h with h | h
        · exact .inr (.inl h)
        · rcases ih h with h | h
          · exact .inl h
          · exact .inr (.inr h)

/-- A write keeps the canonical form. -/
theorem Memory.write_wf (m : Memory) (i : Nat) (v : Word) (h : Memory.wf m) : Memory.wf (Memory.write m i v) := by
  induction m with
  | nil => simp [Memory.write, Memory.wf]
  | cons p m ih =>
    obtain ⟨a, w⟩ := p
    simp only [Memory.wf, List.map_cons, List.pairwise_cons] at h
    simp only [Memory.write]
    split
    · rename_i hlt
      simp only [Memory.wf, List.map_cons, List.pairwise_cons, List.mem_cons]
      refine ⟨?_, h.1, h.2⟩
      rintro b (rfl | hb)
      · exact hlt
      · exact Nat.lt_trans hlt (h.1 b hb)
    · split
      · rename_i e
        subst e
        simpa only [Memory.wf, List.map_cons, List.pairwise_cons] using h
      · rename_i h1 h2
        simp only [Memory.wf, List.map_cons, List.pairwise_cons]
        refine ⟨fun b hb => ?_, ih h.2⟩
        rcases Memory.mem_write_index m i v b hb with rfl | hb
        · omega
        · exact h.1 b hb

/-- A write just past a store's contiguous words extends them by one. -/
theorem Memory.write_append (m : Memory) (i : Nat) (v : Word) (h : ∀ a ∈ m.map Prod.fst, a < i) :
    Memory.write m i v = m ++ [(i, v)] := by
  induction m with
  | nil => rfl
  | cons p m ih =>
    obtain ⟨a, w⟩ := p
    have ha : a < i := h a (by simp)
    simp only [Memory.write, List.cons_append]
    rw [if_neg (by omega), if_neg (by omega), ih fun b hb => h b (by simp at hb ⊢; exact .inr hb)]

/-! ### Stores written from a list of words -/

@[simp] theorem Memory.ofWordsFrom_keys (k : Nat) (ws : List Word) :
    (Memory.ofWordsFrom k ws).map Prod.fst = List.range' k ws.length := by
  induction ws generalizing k with
  | nil => rfl
  | cons w ws ih => simp [Memory.ofWordsFrom, List.range'_succ, ih]

@[simp] theorem Memory.ofWords_keys (ws : List Word) : (Memory.ofWords ws).map Prod.fst = List.range ws.length := by
  simp [Memory.ofWords, List.range_eq_range']

theorem Memory.read_ofWordsFrom (k : Nat) (ws : List Word) (i : Nat) :
    Memory.read (Memory.ofWordsFrom k ws) i = if i < k then none else ws[i - k]? := by
  induction ws generalizing k with
  | nil => simp [Memory.ofWordsFrom]
  | cons w ws ih =>
    rw [Memory.ofWordsFrom, Memory.read_cons, ih]
    rcases Nat.lt_trichotomy i k with h | h | h
    · rw [if_neg (by omega), if_pos (by omega), if_pos h]
    · subst h
      simp
    · rw [if_neg (by omega), if_neg (by omega), if_neg (by omega)]
      obtain ⟨d, rfl⟩ : ∃ d, i = k + 1 + d := ⟨i - (k + 1), by omega⟩
      rw [show k + 1 + d - (k + 1) = d by omega, show k + 1 + d - k = d + 1 by omega, List.getElem?_cons_succ]

/-- A store written from a list holds exactly the list. -/
theorem Memory.read_ofWords (ws : List Word) (i : Nat) : Memory.read (Memory.ofWords ws) i = ws[i]? := by
  simp [Memory.ofWords, Memory.read_ofWordsFrom]

theorem Memory.ofWords_wf (ws : List Word) : Memory.wf (Memory.ofWords ws) := by
  simp only [Memory.wf, Memory.ofWords_keys]
  exact List.pairwise_lt_range

theorem Memory.nil_wf : Memory.wf [] := List.Pairwise.nil

theorem Memory.wf_of_keys_range {m : Memory} {n : Nat} (h : m.map Prod.fst = List.range n) : Memory.wf m := by
  simp only [Memory.wf, h]
  exact List.pairwise_lt_range

/-- A store that holds words at exactly 0, …, n - 1 is the one written from its own words. -/
theorem Memory.eq_ofWords_of_keys {m : Memory} {n : Nat} (h : m.map Prod.fst = List.range n) :
    m = Memory.ofWords (m.map Prod.snd) := by
  suffices H : ∀ (m : Memory) (k : Nat), m.map Prod.fst = List.range' k m.length →
      m = Memory.ofWordsFrom k (m.map Prod.snd) by
    have hl : m.length = n := by simpa using congrArg List.length h
    exact H m 0 (by rw [h, hl, List.range_eq_range'])
  intro m
  induction m with
  | nil => intro k _; rfl
  | cons p m ih =>
    obtain ⟨a, w⟩ := p
    intro k hk
    simp only [List.map_cons, List.length_cons, List.range'_succ, List.cons.injEq] at hk
    rw [List.map_cons, Memory.ofWordsFrom, ← ih (k + 1) hk.2, hk.1]

/-- What the drain's reads give: every entry below `n`, in order, or none if one of them holds no value. -/
theorem Memory.words_eq_some {m : Memory} {n : Nat} {ws : List Word} :
    Memory.words m n = some ws ↔ ws.length = n ∧ ∀ i < n, Memory.read m i = ws[i]? := by
  induction n generalizing ws with
  | zero =>
    simp only [Memory.words, Option.some.injEq, Nat.not_lt_zero, false_implies, implies_true, and_true,
      List.length_eq_zero_iff]
    exact eq_comm
  | succ n ih =>
    simp only [Memory.words, bind, Option.bind_eq_some_iff, pure, Option.some.injEq]
    constructor
    · rintro ⟨us, hus, w, hw, rfl⟩
      obtain ⟨hl, hr⟩ := ih.1 hus
      refine ⟨by simp [hl], fun i hi => ?_⟩
      rcases Nat.lt_succ_iff_lt_or_eq.1 hi with h | rfl
      · rw [hr i h, List.getElem?_append_left (by omega)]
      · rw [hw, List.getElem?_append_right (by omega)]
        simp [hl]
    · rintro ⟨hl, hr⟩
      have hne : ws ≠ [] := by intro e; simp [e] at hl
      refine ⟨ws.dropLast, ih.2 ⟨by simp [hl], fun i hi => ?_⟩, ws.getLast hne, ?_, List.dropLast_append_getLast hne⟩
      · rw [hr i (by omega), List.getElem?_dropLast, if_pos (by omega)]
      · rw [hr n (by omega), List.getLast_eq_getElem, ← List.getElem?_eq_getElem (by omega)]
        simp [hl]

/-- The drain reads back a store that holds exactly the entries below `n`. -/
theorem Memory.words_ofWords (ws : List Word) : Memory.words (Memory.ofWords ws) ws.length = some ws :=
  Memory.words_eq_some.2 ⟨rfl, fun i _ => Memory.read_ofWords ws i⟩

/-! ### Power-up -/

/-- At power-up every entry the drain can read holds its unspecified word. -/
theorem powerUp_read_queue (p : Params) (i : Nat) (h : i < p.maxWords ∨ i < (State.powerUp p).count) :
    Memory.read (State.powerUp p).queue i = some (Config.powerUpQueue i) := by
  have : i < max p.maxWords Config.powerUpCount := by
    simp only [State.powerUp] at h
    omega
  simp [State.powerUp, Memory.read_ofWords, this]

/-- At power-up every entry of the result store, and the one at `idx`, holds its unspecified word. -/
theorem powerUp_read_result (p : Params) (k : Nat) (h : k < p.resWords ∨ k = (State.powerUp p).idx) :
    Memory.read (State.powerUp p).result k = some (Config.powerUpResult k) := by
  have : k < max p.resWords (Config.powerUpIdx + 1) + Config.powerUpSpare := by
    simp only [State.powerUp] at h
    omega
  simp [State.powerUp, Memory.read_ofWords, this]

/-- Both stores are in canonical form at power-up. -/
theorem powerUp_stores_wf (p : Params) : Memory.wf (State.powerUp p).queue ∧ Memory.wf (State.powerUp p).result :=
  ⟨Memory.ofWords_wf _, Memory.ofWords_wf _⟩

/-! ### The operations of the sub-blocks -/

/-- `offer` (R122): a word is queued exactly when there is room, and nothing else changes. -/
theorem State.offer_eq (w : Word) (s : State) :
    (s.count < s.params.maxWords ∧
      s.offer w = { s with queue := Memory.write s.queue s.count w, count := s.count + 1 }) ∨
    (s.params.maxWords ≤ s.count ∧ s.offer w = s) := by
  by_cases h : s.count < s.params.maxWords
  · exact .inl ⟨h, by simp [State.offer, h]⟩
  · exact .inr ⟨by omega, by simp [State.offer, h]⟩

/-- The drain on a queue that holds exactly `ws`. -/
theorem State.drainBits_of_queue {s : State} {ws : List Word} (hq : s.queue = Memory.ofWords ws)
    (hc : s.count = ws.length) : s.drainBits = some (ws.flatMap wordBits) := by
  simp [State.drainBits, State.drainWords, hq, hc, Memory.words_ofWords]

@[simp] theorem chunk_length (f : List Bool) : (chunk f).length = chunkCount f.length := by simp [chunk]

end Sys2Proof.Machine
end

