-- ==== Sys2Proof/Laws/Operands.lean ====
section
/-! SUPPORT. The bits of packed words and the sequences of data words. -/

namespace Sys2Proof.Machine

open Sys2Proof

theorem msbFirst_lt (f : Nat → Bool) (n : Nat) : msbFirst f n < 2 ^ n := by
  induction n with
  | zero => simp [msbFirst]
  | succ n ih =>
    have := Bool.toNat_lt (f n)
    simp only [msbFirst, Nat.pow_succ]
    omega

/-- The binary digits of `msbFirst f n`: digit `i` is `f (n - 1 - i)`. -/
theorem msbFirst_testBit (f : Nat → Bool) (n i : Nat) :
    (msbFirst f n).testBit i = (decide (i < n) && f (n - 1 - i)) := by
  induction n generalizing i with
  | zero => simp [msbFirst]
  | succ n ih =>
    cases i with
    | zero => cases h : f n <;> simp [msbFirst, Nat.testBit_zero, h, Nat.add_mod]
    | succ i =>
      rw [Nat.testBit_succ, show msbFirst f (n + 1) / 2 = msbFirst f n by
        have := Bool.toNat_lt (f n)
        simp only [msbFirst]
        omega, ih]
      by_cases h : i < n
      · rw [show n + 1 - 1 - (i + 1) = n - 1 - i by omega]
        simp [h]
      · simp [h]

/-- `packWord f` has `w[127 - t] = f t` (R56, R181). -/
theorem packWord_getLsbD (f : Nat → Bool) (t : Nat) (h : t < 128) : (packWord f).getLsbD (127 - t) = f t := by
  rw [packWord, BitVec.getLsbD_ofNat, msbFirst_testBit]
  simp only [show 127 - t < 128 by omega, decide_true, Bool.true_and]
  rw [show 128 - 1 - (127 - t) = t by omega]

@[simp] theorem wordBits_length (w : Word) : (wordBits w).length = 128 := by simp [wordBits]

/-- Element `t` of a word's bits is `w[127 - t]` (R55). -/
theorem wordBits_getElem? (w : Word) (t : Nat) (h : t < 128) :
    (wordBits w)[t]? = some (TriBit.ofBool (w.getLsbD (127 - t))) := by
  simp [wordBits, h]

/-- Word `k` of the chunker has `f[128 k + t]` at bit `127 - t`, 0 beyond the end (R181). -/
theorem chunkWord_getLsbD (f : List Bool) (k t : Nat) (h : t < 128) :
    (chunkWord f k).getLsbD (127 - t) = f.getD (128 * k + t) false := by
  rw [chunkWord, packWord_getLsbD _ _ h]

/-- The length of an assembled sequence: 128 bits a word (R123). -/
theorem flatMap_wordBits_length (ws : List Word) : (ws.flatMap wordBits).length = 128 * ws.length := by
  induction ws with
  | nil => rfl
  | cons w ws ih => simp [ih]; omega

end Sys2Proof.Machine
end

