-- ==== Sys2Proof/Laws/PerInstr.lean ====
section
/-! SUPPORT. The family of encoding lemmas: for each operation, the decoder answers it exactly on the selectors that match its
row (R81), whatever the bits the row does not examine. -/

namespace Sys2Proof.Laws.RowDecodes

open Sys2Proof

/-- The decoder answers `i` exactly on the selectors that match the row of `i`. -/
def Statement (i : Instr) : Prop := ∀ S : BitVec 9, decodeSelector S = i ↔ rowMatches i S

theorem reset : Statement .reset := by unfold Statement; decide
theorem idleAdvance : Statement .idleAdvance := by unfold Statement; decide
theorem cfgHold : Statement .cfgHold := by unfold Statement; decide
theorem cfgAccept : Statement .cfgAccept := by unfold Statement; decide
theorem rxHold : Statement .rxHold := by unfold Statement; decide
theorem rxAccept : Statement .rxAccept := by unfold Statement; decide
theorem rxAcceptFill : Statement .rxAcceptFill := by unfold Statement; decide
theorem procWait : Statement .procWait := by unfold Statement; decide
theorem procError : Statement .procError := by unfold Statement; decide
theorem procDone : Statement .procDone := by unfold Statement; decide
theorem txHold : Statement .txHold := by unfold Statement; decide
theorem txWord : Statement .txWord := by unfold Statement; decide
theorem txLast : Statement .txLast := by unfold Statement; decide
theorem badState101 : Statement .badState101 := by unfold Statement; decide
theorem badState11x : Statement .badState11x := by unfold Statement; decide

end Sys2Proof.Laws.RowDecodes
end

