-- ==== Sys2Proof/Laws/Step.lean ====
section
/-! SUPPORT. What a tick can be: the operation chosen, in terms of the inputs and registers, and the shape of a step's outcome. -/

namespace Sys2Proof.Machine

open Sys2Proof

/-- The operation map read off the selector's parts (R81). -/
theorem decodeSelector_parts : ∀ (r : Bool) (st : BitVec 3) (c i o l k : Bool),
    decodeSelector (BitVec.ofBool r ++ st ++ BitVec.ofBool c ++ BitVec.ofBool i ++ BitVec.ofBool o ++ BitVec.ofBool l
      ++ BitVec.ofBool k) =
    if r then .reset
    else if st = codeIdle then .idleAdvance
    else if st = codeAwaitCfg then (if c then .cfgAccept else .cfgHold)
    else if st = codeReceiving then (if i then (if l then .rxAcceptFill else .rxAccept) else .rxHold)
    else if st = codeProcessing then (if l then (if k then .procDone else .procError) else .procWait)
    else if st = codeEmitting then (if o then (if l then .txLast else .txWord) else .txHold)
    else if st = 5#3 then .badState101
    else .badState11x := by
  decide

/-- The operation of a tick, by cases on `rst`, the state code and the bits the rows of that state examine. -/
theorem State.operation_eq (s : State) :
    s.operation =
    if s.pins.rst then .reset
    else if s.state = codeIdle then .idleAdvance
    else if s.state = codeAwaitCfg then (if s.pins.cfgValid then .cfgAccept else .cfgHold)
    else if s.state = codeReceiving then (if s.pins.inValid then (if s.final then .rxAcceptFill else .rxAccept) else .rxHold)
    else if s.state = codeProcessing then (if s.final then (if s.ok then .procDone else .procError) else .procWait)
    else if s.state = codeEmitting then (if s.pins.outReady then (if s.final then .txLast else .txWord) else .txHold)
    else if s.state = 5#3 then .badState101
    else .badState11x :=
  decodeSelector_parts _ _ _ _ _ _ _

/-- A step answers a next state exactly when its operation does, and adds only the end of the tick. -/
theorem step_eq_next {s t : State} : step s = .next t ↔ ∃ u, exec s.operation s = .next u ∧ t = u.endTick := by
  unfold step
  cases h : exec s.operation s <;> simp [finishTick, eq_comm]

/-- What PROC_ERROR can do: it takes the error RateMatch raises. -/
theorem execProcError_eq_next {s t : State} :
    exec .procError s = .next t ↔ ∃ k, s.passResult = some (.error k) ∧ t = s.takeError k := by
  rcases h : s.passResult with _ | (f | k | _) <;> simp [exec, execProcError, h, eq_comm (a := t)]

/-- What PROC_DONE can do: it stores the sequence RateMatch returns. -/
theorem execProcDone_eq_next {s t : State} :
    exec .procDone s = .next t ↔ ∃ f, s.passResult = some (.sequence f) ∧ t = s.storeResult f := by
  rcases h : s.passResult with _ | (f | k | _) <;> simp [exec, execProcDone, h, eq_comm (a := t)]

/-- What TX_WORD can do: it transfers the word offered and advances. -/
theorem execTxWord_eq_next {s t : State} :
    exec .txWord s = .next t ↔
      ∃ w, Memory.read s.result s.idx = some w ∧ t = { s.emit w with idx := s.idx + 1 } := by
  rcases h : Memory.read s.result s.idx with _ | w <;> simp [exec, execTxWord, h, eq_comm (a := t)]

/-- What TX_LAST can do: it transfers the word offered and ends the pass. -/
theorem execTxLast_eq_next {s t : State} :
    exec .txLast s = .next t ↔
      ∃ w, Memory.read s.result s.idx = some w ∧
        t = { s.emit w with idx := 0, nwords := 0, result := [], state := codeIdle } := by
  rcases h : Memory.read s.result s.idx with _ | w <;> simp [exec, execTxLast, h, eq_comm (a := t)]

/-- All a step can do: when it answers a next state, one of these fifteen cases holds, with the inputs and registers that select the
operation, and the state it leaves before the end of the tick. -/
inductive StepCase (s : State) : State → Prop where
  | reset (rst : s.pins.rst = true) (op : s.operation = .reset) : StepCase s s.clearAll
  | idleAdvance (rst : s.pins.rst = false) (st : s.state = codeIdle) (op : s.operation = .idleAdvance) :
      StepCase s { s with state := codeAwaitCfg }
  | cfgHold (rst : s.pins.rst = false) (st : s.state = codeAwaitCfg) (v : s.pins.cfgValid = false)
      (op : s.operation = .cfgHold) : StepCase s s
  | cfgAccept (rst : s.pins.rst = false) (st : s.state = codeAwaitCfg) (v : s.pins.cfgValid = true)
      (op : s.operation = .cfgAccept) :
      StepCase s { s with cfg := decodeConfig s.pins.cfgData, err := errNone, state := codeReceiving }
  | rxHold (rst : s.pins.rst = false) (st : s.state = codeReceiving) (v : s.pins.inValid = false)
      (op : s.operation = .rxHold) : StepCase s s
  | rxAccept (rst : s.pins.rst = false) (st : s.state = codeReceiving) (v : s.pins.inValid = true)
      (l : s.count + 1 ≠ s.params.maxWords) (op : s.operation = .rxAccept) : StepCase s (s.offer s.pins.inData)
  | rxAcceptFill (rst : s.pins.rst = false) (st : s.state = codeReceiving) (v : s.pins.inValid = true)
      (l : s.count + 1 = s.params.maxWords) (op : s.operation = .rxAcceptFill) :
      StepCase s { s with queue := Memory.write s.queue s.count s.pins.inData, count := s.params.maxWords, procCnt := 0,
                          state := codeProcessing }
  | procWait (rst : s.pins.rst = false) (st : s.state = codeProcessing) (l : s.procCnt + 1 ≠ s.params.procTicks)
      (op : s.operation = .procWait) : StepCase s { s with procCnt := s.procCnt + 1 }
  | procError (rst : s.pins.rst = false) (st : s.state = codeProcessing) (l : s.procCnt + 1 = s.params.procTicks)
      (k : ErrorKind) (r : s.passResult = some (.error k)) (op : s.operation = .procError) : StepCase s (s.takeError k)
  | procDone (rst : s.pins.rst = false) (st : s.state = codeProcessing) (l : s.procCnt + 1 = s.params.procTicks)
      (f : List Bool) (r : s.passResult = some (.sequence f)) (op : s.operation = .procDone) : StepCase s (s.storeResult f)
  | txHold (rst : s.pins.rst = false) (st : s.state = codeEmitting) (v : s.pins.outReady = false)
      (op : s.operation = .txHold) : StepCase s s
  | txWord (rst : s.pins.rst = false) (st : s.state = codeEmitting) (v : s.pins.outReady = true)
      (l : s.idx + 1 ≠ s.nwords) (w : Word) (r : Memory.read s.result s.idx = some w) (op : s.operation = .txWord) :
      StepCase s { s.emit w with idx := s.idx + 1 }
  | txLast (rst : s.pins.rst = false) (st : s.state = codeEmitting) (v : s.pins.outReady = true)
      (l : s.idx + 1 = s.nwords) (w : Word) (r : Memory.read s.result s.idx = some w) (op : s.operation = .txLast) :
      StepCase s { s.emit w with idx := 0, nwords := 0, result := [], state := codeIdle }
  | badState101 (rst : s.pins.rst = false) (st : s.state = 5#3) (op : s.operation = .badState101) : StepCase s s.clearAll
  | badState11x (rst : s.pins.rst = false) (st : s.state = 6#3 ∨ s.state = 7#3) (op : s.operation = .badState11x) :
      StepCase s s.clearAll

/-- The codes of the `state` register are the five of R78 and three illegal ones. -/
theorem state_codes : ∀ c : BitVec 3, c = codeIdle ∨ c = codeAwaitCfg ∨ c = codeReceiving ∨ c = codeProcessing ∨ c = codeEmitting ∨
    c = 5#3 ∨ c = 6#3 ∨ c = 7#3 := by decide

theorem step_cases {s t : State} (h : step s = .next t) : ∃ u, StepCase s u ∧ t = u.endTick := by
  obtain ⟨u, hu, rfl⟩ := step_eq_next.1 h
  refine ⟨u, ?_, rfl⟩
  have op := s.operation_eq
  by_cases rst : s.pins.rst = true
  · rw [if_pos rst] at op
    rw [op] at hu
    cases hu
    exact .reset rst op
  · rw [if_neg rst] at op
    rw [Bool.not_eq_true] at rst
    rcases state_codes s.state with st | st | st | st | st | st | st | st
    · simp only [st, if_true] at op
      rw [op] at hu
      cases hu
      exact .idleAdvance rst st op
    · simp only [st, show ¬ codeAwaitCfg = codeIdle by decide, if_false, if_true] at op
      by_cases v : s.pins.cfgValid = true
      · rw [if_pos v] at op
        rw [op] at hu
        cases hu
        exact .cfgAccept rst st v op
      · rw [if_neg v] at op
        rw [op] at hu
        cases hu
        exact .cfgHold rst st (by simpa using v) op
    · simp only [st, show ¬ codeReceiving = codeIdle by decide, show ¬ codeReceiving = codeAwaitCfg by decide, if_false, if_true,
        State.final, beq_iff_eq] at op
      by_cases v : s.pins.inValid = true
      · rw [if_pos v] at op
        by_cases l : s.count + 1 = s.params.maxWords
        · rw [if_pos l] at op
          rw [op] at hu
          cases hu
          exact .rxAcceptFill rst st v l op
        · rw [if_neg l] at op
          rw [op] at hu
          cases hu
          exact .rxAccept rst st v l op
      · rw [if_neg v] at op
        rw [op] at hu
        cases hu
        exact .rxHold rst st (by simpa using v) op
    · simp only [st, show ¬ codeProcessing = codeIdle by decide, show ¬ codeProcessing = codeAwaitCfg by decide,
        show ¬ codeProcessing = codeReceiving by decide, if_false, if_true, State.final, beq_iff_eq] at op
      by_cases l : s.procCnt + 1 = s.params.procTicks
      · rw [if_pos l] at op
        by_cases k : s.ok = true
        · rw [if_pos k] at op
          rw [op] at hu
          obtain ⟨f, r, rfl⟩ := execProcDone_eq_next.1 hu
          exact .procDone rst st l f r op
        · rw [if_neg k] at op
          rw [op] at hu
          obtain ⟨k, r, rfl⟩ := execProcError_eq_next.1 hu
          exact .procError rst st l k r op
      · rw [if_neg l] at op
        rw [op] at hu
        cases hu
        exact .procWait rst st l op
    · simp only [st, show ¬ codeEmitting = codeIdle by decide, show ¬ codeEmitting = codeAwaitCfg by decide,
        show ¬ codeEmitting = codeReceiving by decide, show ¬ codeEmitting = codeProcessing by decide, if_false, if_true,
        State.final, State.atLastWord, beq_iff_eq] at op
      by_cases v : s.pins.outReady = true
      · rw [if_pos v] at op
        by_cases l : s.idx + 1 = s.nwords
        · rw [if_pos l] at op
          rw [op] at hu
          obtain ⟨w, r, rfl⟩ := execTxLast_eq_next.1 hu
          exact .txLast rst st v l w r op
        · rw [if_neg l] at op
          rw [op] at hu
          obtain ⟨w, r, rfl⟩ := execTxWord_eq_next.1 hu
          exact .txWord rst st v l w r op
      · rw [if_neg v] at op
        rw [op] at hu
        cases hu
        exact .txHold rst st (by simpa using v) op
    · simp only [st, show ¬ (5#3 = codeIdle) by decide, show ¬ (5#3 = codeAwaitCfg) by decide,
        show ¬ (5#3 = codeReceiving) by decide, show ¬ (5#3 = codeProcessing) by decide, show ¬ (5#3 = codeEmitting) by decide,
        if_false, if_true] at op
      rw [op] at hu
      cases hu
      exact .badState101 rst st op
    · simp only [st, show ¬ (6#3 = codeIdle) by decide, show ¬ (6#3 = codeAwaitCfg) by decide,
        show ¬ (6#3 = codeReceiving) by decide, show ¬ (6#3 = codeProcessing) by decide, show ¬ (6#3 = codeEmitting) by decide,
        show ¬ (6#3 = 5#3) by decide, if_false] at op
      rw [op] at hu
      cases hu
      exact .badState11x rst (.inl st) op
    · simp only [st, show ¬ (7#3 = codeIdle) by decide, show ¬ (7#3 = codeAwaitCfg) by decide,
        show ¬ (7#3 = codeReceiving) by decide, show ¬ (7#3 = codeProcessing) by decide, show ¬ (7#3 = codeEmitting) by decide,
        show ¬ (7#3 = 5#3) by decide, if_false] at op
      rw [op] at hu
      cases hu
      exact .badState11x rst (.inr st) op

end Sys2Proof.Machine
end

