-- ==== Sys2Proof/Tests/Slice0.lean ====
section
/-! SUPPORT. Small tests. Expected values come from the vectors of spec/95_test_vectors.md (named by their ids) or from a rule
(named by its number); the witnesses show concrete states and operands that meet the hypotheses of the statements. -/

namespace Sys2Proof.Tests

open Sys2Proof Sys2Proof.Machine

/-! ### Helpers -/

/-- A build with `MAX_WORDS` = 2, as the vectors T1 to T18 assume. -/
def params2 : Params := { Params.default with maxWords := 2 }

def quiet : Pins := idlePins
def pinsRst : Pins := { idlePins with rst := true, outReady := true }
def pinsCfg (d : CfgWord) : Pins := { idlePins with cfgValid := true, cfgData := d }
def pinsIn (w : Word) : Pins := { idlePins with inValid := true, inData := w }
def pinsOut : Pins := { idlePins with outReady := true }

/-- A block of the small build in a given phase, with one input sample. -/
def block (code : BitVec 3) (p : Pins) : State := { State.reset with params := params2, state := code, script := [p] }

def w0 : Word := 0x0123456789ABCDEFFEDCBA9876543210#128
def w1 : Word := 0xF0E1D2C3B4A5968778695A4B3C2D1E0F#128
def w2 : Word := 0xFFFF0000FFFF0000AAAA5555AAAA5555#128
def w3 : Word := 0x80000000000000000000000000000001#128

/-- The second configuration of program P2: inlen 100, outlen 10, rv 1, nlayers 1, Qm 2, Nref 0. -/
def cfgP2 : CfgWord := 0x0045000A0064#47

/-- `RECEIVING` with one word queued. -/
def receiving1 (p : Pins) : State := { block codeReceiving p with count := 1, queue := [(0, w2)] }

/-- `PROCESSING` with the two words of P2 queued. -/
def processing (c : CfgWord) (p : Pins) : State :=
  { block codeProcessing p with count := 2, queue := [(0, w2), (1, w3)], cfg := decodeConfig c }

/-- `EMITTING` the word `i` of three. -/
def emitting (i : Nat) (p : Pins) : State :=
  { block codeEmitting p with nwords := 3, idx := i, result := [(0, w0), (1, w1), (2, w2)] }

/-- A property of the next state; false on a stop. -/
def onNext (o : Host.Outcome State Fault Refusal) (f : State → Bool) : Bool :=
  match o with
  | .next t => f t
  | _ => false

/-- The fault of an outcome. -/
def faultOf : Host.Outcome State Fault Refusal → Option Fault
  | .fault r => some r
  | _ => none

/-! ### Well-formedness: each check refuses an ill-formed term -/

theorem test_wf_default_params : Params.default.wf := by decide
theorem test_wf_refuses_no_words : ¬ Params.wf { Params.default with maxWords := 0 } := by decide
theorem test_wf_refuses_no_ticks : ¬ Params.wf { Params.default with procTicks := 0 } := by decide
theorem test_wf_refuses_small_store : ¬ Params.wf { Params.default with eMode := .literal, resWords := 512 } := by decide
theorem test_wf_raw_config : RawConfig.wf { inlen := 1320, outlen := 2000, rv := 3, nlayers := 4, qm := 8, nref := 0 } := by
  decide
theorem test_wf_refuses_inlen : ¬ RawConfig.wf { inlen := 65536, outlen := 0, rv := 0, nlayers := 1, qm := 1, nref := 0 } := by
  decide
theorem test_wf_refuses_outlen : ¬ RawConfig.wf { inlen := 1, outlen := 65536, rv := 0, nlayers := 1, qm := 1, nref := 0 } := by
  decide
theorem test_wf_refuses_rv : ¬ RawConfig.wf { inlen := 1, outlen := 1, rv := 4, nlayers := 1, qm := 1, nref := 0 } := by decide
theorem test_wf_refuses_nlayers : ¬ RawConfig.wf { inlen := 1, outlen := 1, rv := 0, nlayers := 8, qm := 1, nref := 0 } := by
  decide
theorem test_wf_refuses_qm : ¬ RawConfig.wf { inlen := 1, outlen := 1, rv := 0, nlayers := 1, qm := 16, nref := 0 } := by decide
theorem test_wf_refuses_nref : ¬ RawConfig.wf { inlen := 1, outlen := 1, rv := 0, nlayers := 1, qm := 1, nref := 64 } := by decide
theorem test_selector_refuses_final_in_idle : ¬ selectorFormed 0b000000010#9 := by decide
theorem test_selector_refuses_ok_in_receiving : ¬ selectorFormed 0b001000001#9 := by decide

/-! ### Decoding: words written out from the patterns of R81 -/

theorem test_decode_reset : decode 0b101101111 = .ok .reset := by decide
theorem test_decode_idle_advance : decode 0b000011111 = .ok .idleAdvance := by decide
theorem test_decode_cfg_hold : decode 0b000101111 = .ok .cfgHold := by decide
theorem test_decode_cfg_accept : decode 0b000111111 = .ok .cfgAccept := by decide
theorem test_decode_rx_hold : decode 0b001010111 = .ok .rxHold := by decide
theorem test_decode_rx_accept : decode 0b001011101 = .ok .rxAccept := by decide
theorem test_decode_rx_accept_fill : decode 0b001011111 = .ok .rxAcceptFill := by decide
theorem test_decode_proc_wait : decode 0b001111101 = .ok .procWait := by decide
theorem test_decode_proc_error : decode 0b001111110 = .ok .procError := by decide
theorem test_decode_proc_done : decode 0b001111111 = .ok .procDone := by decide
theorem test_decode_tx_hold : decode 0b010011011 = .ok .txHold := by decide
theorem test_decode_tx_word : decode 0b010011101 = .ok .txWord := by decide
theorem test_decode_tx_last : decode 0b010011111 = .ok .txLast := by decide
theorem test_decode_bad_state_101 : decode 0b010111111 = .ok .badState101 := by decide
theorem test_decode_bad_state_110 : decode 0b011011111 = .ok .badState11x := by decide
theorem test_decode_bad_state_111 : decode 0b011100000 = .ok .badState11x := by decide
theorem test_decode_refuses_ten_bits : decode 0b1000000000 = .error .selectorTooWide := by decide
theorem test_table_word : decodeTableWord 16 0x04A = some .rxAcceptFill := by decide
theorem test_table_word_too_wide : decodeTableWord 16 0x24A = none := by decide

/-- V1 (Scenario A). -/
theorem test_config_v1 : decodeConfig 0x011307D00528#47 =
    { inlen := 1320, outlen := 2000, rv := 3, nlayers := 4, qm := 8, nref := 0 } := by decide
/-- V5. -/
theorem test_config_v5 : decodeConfig 0x142600050080#47 =
    { inlen := 128, outlen := 5, rv := 2, nlayers := 1, qm := 1, nref := 10 } := by decide
/-- V4. -/
theorem test_encode_v4 : encodeRaw { inlen := 200, outlen := 300, rv := 2, nlayers := 2, qm := 4, nref := 0 } =
    some 0x008A012C00C8#47 := by decide
/-- U8: `nlayers` = 8 has no encoding. -/
theorem test_encode_refuses_eight_layers :
    encodeRaw { inlen := 200, outlen := 300, rv := 2, nlayers := 8, qm := 4, nref := 0 } = none := by decide

/-! ### The algorithm -/

/-- B3 and B4. -/
theorem test_base_graph : baseGraph 1122 = .bg2 ∧ liftingSize 1122 = 22 ∧ baseGraph 25344 = .bg1 ∧ liftingSize 25344 = 384 := by
  decide
/-- K2, K6, K11, K13, K15. -/
theorem test_start_offset : startOffset 132 63 2 = 30 ∧ startOffset 100 10 2 = 4 ∧ startOffset 65535 0 3 = 56330 ∧
    startOffset 1320 63 3 = 40 ∧ startOffset 25344 63 3 = 0 := by decide
/-- E1 and E2. -/
theorem test_output_length : outputLength .floor 2000 32 = 1984 ∧ outputLength .literal 2000 32 = 2016 ∧
    outputLength .modEquiv 2000 32 = 2016 ∧ outputLength .literal 20 32 = 0 ∧ outputLength .modEquiv 20 32 = 32 := by decide
/-- E5: more than 16 bits. -/
theorem test_output_length_largest : outputLength .modEquiv 65535 105 = 65625 ∧ outputLength .floor 65535 105 = 65520 := by decide
/-- L1s. -/
theorem test_select_skips_filler : select [.one, .filler, .zero, .one] 4 0 4 = some [true, false, true, true] := by decide
/-- L3s: `k0` above `Ncb`. -/
theorem test_select_offset_wraps : select [.zero, .one, .one, .zero, .one] 5 7 8 =
    some [true, false, true, false, true, true, false, true] := by decide
/-- L4s: nine positions inspected for three bits. -/
theorem test_select_repeats_one_bit : select [.filler, .filler, .one] 3 0 3 = some [true, true, true] := by decide
/-- L5s. -/
theorem test_select_stuck : select [.filler, .filler, .filler] 3 0 1 = none := by decide
/-- I1 and I2. -/
theorem test_interleave : interleave [0, 1, 2, 3, 4, 5] 3 = .ok [0, 2, 4, 1, 3, 5] ∧
    interleave [0, 1, 2, 3, 4, 5] 2 = .ok [0, 3, 1, 4, 2, 5] := by decide
theorem test_interleave_non_multiple : interleave [0, 1, 2, 3, 4] 3 = .error .invalidParameter := by decide
set_option maxRecDepth 20000 in
/-- W3 and W4. -/
theorem test_chunk : chunk [true, false, true] = [0xA0000000000000000000000000000000#128] ∧ chunk [] = [] := by decide
set_option maxRecDepth 20000 in
/-- R55: the first bit in time is bit 127. -/
theorem test_word_bits : (wordBits w3)[0]? = some .one ∧ (wordBits w3)[1]? = some .zero ∧ (wordBits w3)[127]? = some .one := by
  decide

/-! ### One step at a time: T1 to T18 -/

/-- T2. -/
theorem test_t2 : onNext (step { block codeIdle (pinsCfg 0) with err := 3 })
    (fun t => t.state == codeAwaitCfg && t.err == 3 && t.cfg == State.reset.cfg) = true := by decide
/-- T3. -/
theorem test_t3 : step { block codeAwaitCfg quiet with err := 2 } =
    .next { block codeAwaitCfg quiet with err := 2, script := [], tick := 1 } := by rfl
/-- T4. -/
theorem test_t4 : onNext (step { block codeAwaitCfg (pinsCfg 0x008A012C00C8#47) with err := 2 }) (fun t =>
    t.state == codeReceiving && t.err == 0 &&
    t.cfg == { inlen := 200, outlen := 300, rv := 2, nlayers := 2, qm := 4, nref := 0 }) = true := by decide
/-- T5. -/
theorem test_t5 : onNext (step (block codeReceiving (pinsIn w0)))
    (fun t => t.state == codeReceiving && t.count == 1 && Memory.read t.queue 0 == some w0) = true := by decide
/-- T6. -/
theorem test_t6 : (receiving1 quiet).operation = .rxHold ∧ (receiving1 quiet).inReady = true ∧
    (receiving1 quiet).selector = 0x042#9 := by decide
/-- T7. -/
theorem test_t7 : onNext (step (receiving1 (pinsIn w1))) (fun t =>
    t.state == codeProcessing && t.count == 2 && t.procCnt == 0 && Memory.read t.queue 1 == some w1 && t.isReady) = true := by
  decide
/-- T8. -/
theorem test_t8 : onNext (step { processing 0 quiet with params := { params2 with procTicks := 3 } })
    (fun t => t.state == codeProcessing && t.procCnt == 1 && t.count == 2) = true := by decide
/-- T9 (Scenario B). -/
theorem test_t9 : onNext (step (processing 0 quiet)) (fun t => t.state == codeIdle && t.err == 2 && t.count == 0) = true := by
  decide
set_option maxRecDepth 20000 in
/-- T10. -/
theorem test_t10 : onNext (step (processing 0x0084012C012C#47 quiet)) (fun t => t.state == codeIdle && t.err == 3) = true := by
  decide
set_option maxRecDepth 20000 in
/-- Program P2, tick 9: the word `154000…` is stored. -/
theorem test_p2_done : onNext (step (processing cfgP2 quiet)) (fun t =>
    t.state == codeEmitting && t.nwords == 1 && t.count == 0 && t.queue == [] &&
    t.result == [(0, 0x15400000000000000000000000000000#128)]) = true := by decide
set_option maxRecDepth 20000 in
/-- T12 (program P5): `E` = 0. -/
theorem test_t12 : onNext (step (processing 0x004400010064#47 quiet))
    (fun t => t.state == codeIdle && t.nwords == 0 && t.err == 0 && t.result == []) = true := by decide
/-- T13. -/
theorem test_t13 : onNext (step (emitting 0 quiet)) (fun t => t.idx == 0 && t.sent == [] && t.state == codeEmitting) = true := by
  decide
/-- T14. -/
theorem test_t14 : onNext (step (emitting 0 pinsOut))
    (fun t => t.idx == 1 && t.sent == [{ data := w0, last := some false }]) = true := by decide
/-- T15. -/
theorem test_t15 : onNext (step (emitting 2 pinsOut)) (fun t =>
    t.state == codeIdle && t.idx == 0 && t.nwords == 0 && t.sent == [{ data := w2, last := some true }]) = true := by decide
/-- T17. -/
theorem test_t17 : onNext (step { block 6#3 quiet with count := 1, err := 3 })
    (fun t => t.state == codeIdle && t.count == 0 && t.err == 0) = true := by decide
/-- R215, code 101. -/
theorem test_bad_state_101 : onNext (step { block 5#3 quiet with idx := 1 }) (fun t => t.state == codeIdle && t.idx == 0) = true :=
  by decide
/-- T18. -/
theorem test_t18 : onNext (step (emitting 1 pinsRst))
    (fun t => t.state == codeIdle && t.nwords == 0 && t.result == [] && t.sent == []) = true := by decide
/-- R203, R204: the outputs while the last word is offered, and without the port. -/
theorem test_outputs_last : (emitting 2 quiet).outData = .ok w2 ∧ (emitting 2 quiet).outLast = some true ∧
    State.outLast { emitting 2 quiet with params := { params2 with hasOutLast := false } } = none := by
  refine ⟨rfl, ?_, ?_⟩ <;> decide

/-! ### withFetchWord: the next step runs the table's word -/

set_option maxRecDepth 20000 in
theorem test_fetch_runs_every_row :
    ∀ i ∈ [Instr.reset, .idleAdvance, .cfgHold, .cfgAccept, .rxHold, .rxAccept, .rxAcceptFill, .procWait, .procError, .procDone,
      .txHold, .txWord, .txLast, .badState101, .badState11x],
      (State.reset.withFetchWord 16 (encode i).toNat).operation = i := by decide

/-! ### Witnesses: the hypotheses of the statements are met -/

theorem test_witness_step_runs : decode (block codeIdle quiet).selector.toNat = .ok .idleAdvance := by decide
theorem test_witness_config_encode : RawConfig.wf { inlen := 1, outlen := 1, rv := 1, nlayers := 1, qm := 1, nref := 1 } ∧
    ¬ RawConfig.wf { inlen := 200, outlen := 300, rv := 2, nlayers := 8, qm := 4, nref := 0 } := by decide
theorem test_witness_placed_selector : State.reset.params.wf ∧ (9 : Nat) ≤ 16 ∧ (511 : Nat) < 512 := by decide
theorem test_witness_reset_pins : (emitting 1 pinsRst).pins.rst = true ∧ (emitting 1 pinsRst).params.wf ∧
    (emitting 1 pinsRst).operation = .reset := by decide
theorem test_witness_power_up : Params.default.wf ∧ pinsRst.rst = true := by decide
theorem test_witness_reset_forgets : (emitting 1 pinsRst).params = (receiving1 pinsRst).params ∧
    (emitting 1 pinsRst).script = (receiving1 pinsRst).script ∧ (emitting 1 pinsRst).sent = (receiving1 pinsRst).sent ∧
    (emitting 1 pinsRst).tick = (receiving1 pinsRst).tick ∧ (emitting 1 pinsRst).pins.rst = true ∧
    emitting 1 pinsRst ≠ receiving1 pinsRst := by decide
theorem test_witness_inv_idle : (block codeIdle quiet).Inv ∧ (block codeIdle quiet).operation = .idleAdvance := by decide
theorem test_witness_inv_receiving : (receiving1 (pinsIn w1)).Inv ∧ (receiving1 (pinsIn w1)).operation = .rxAcceptFill := by decide
theorem test_witness_inv_emitting : (emitting 2 pinsOut).Inv ∧ (emitting 2 pinsOut).operation = .txLast := by decide
theorem test_witness_step_next : ∃ t, step (block codeIdle quiet) = .next t := ⟨_, rfl⟩
theorem test_witness_step_keeps : (receiving1 (pinsIn w1)).Inv ∧ ∃ t, step (receiving1 (pinsIn w1)) = .next t :=
  ⟨by decide, _, rfl⟩
theorem test_witness_cycle_error : (processing 0 quiet).Inv ∧ (processing 0 quiet).pins.rst = false ∧
    (processing 0 quiet).state = codeProcessing ∧ onNext (step (processing 0 quiet)) (fun t => t.state == codeIdle) = true := by
  decide
theorem test_witness_inv_reset : (emitting 1 pinsRst).Inv ∧ (emitting 1 pinsRst).pins.rst = true := by decide
theorem test_witness_illegal : ¬ (block 7#3 quiet).legal := by decide
theorem test_witness_exec_next : ∃ t, exec .rxAcceptFill (receiving1 (pinsIn w1)) = .next t := ⟨_, rfl⟩
theorem test_witness_store_nothing : Instr.txWord ∈ [Instr.idleAdvance, .cfgHold, .cfgAccept, .rxHold, .procWait, .txHold, .txWord] ∧
    ∃ t, exec .txWord (emitting 0 pinsOut) = .next t := ⟨by decide, _, rfl⟩
theorem test_witness_transfer : (emitting 0 pinsOut).outXfer = true ∧ (emitting 0 quiet).outXfer = false := by decide
theorem test_witness_outputs : State.pins { emitting 0 quiet with script := [pinsIn w1] } = pinsIn w1 ∧
    (pinsIn w1).rst = (emitting 0 quiet).pins.rst ∧ (emitting 0 quiet).outValid = true := by decide
theorem test_witness_data_inputs : (receiving1 (pinsIn w1)).script = pinsIn w1 :: [] ∧ (receiving1 (pinsIn w1)).inXfer = true ∧
    (receiving1 (pinsIn w1)).cfgXfer = false := by decide
theorem test_witness_data_inputs_cfg : (block codeAwaitCfg (pinsCfg 7)).cfgXfer = true ∧
    (block codeAwaitCfg (pinsCfg 7)).inXfer = false := by decide
theorem test_witness_stable_offer : (emitting 1 quiet).state = codeEmitting ∧ (emitting 1 quiet).pins.rst = false ∧
    (emitting 1 quiet).pins.outReady = false := by decide

/-- `AWAIT_CFG` after a pass that left an error and a configuration. -/
def awaitingAfterError : State := { block codeAwaitCfg (pinsCfg cfgP2) with err := 3, cfg := decodeConfig 5 }

theorem test_witness_next_pass : (block codeAwaitCfg (pinsCfg cfgP2)).Inv ∧ awaitingAfterError.Inv ∧
    (block codeAwaitCfg (pinsCfg cfgP2)).state = codeAwaitCfg ∧ awaitingAfterError.state = codeAwaitCfg ∧
    (block codeAwaitCfg (pinsCfg cfgP2)).params = awaitingAfterError.params ∧
    (block codeAwaitCfg (pinsCfg cfgP2)).script = awaitingAfterError.script ∧
    (block codeAwaitCfg (pinsCfg cfgP2)).sent = awaitingAfterError.sent ∧
    (block codeAwaitCfg (pinsCfg cfgP2)).tick = awaitingAfterError.tick ∧ awaitingAfterError.pins.rst = false ∧
    awaitingAfterError.pins.cfgValid = true ∧ block codeAwaitCfg (pinsCfg cfgP2) ≠ awaitingAfterError :=
  ⟨by decide, by decide, rfl, rfl, rfl, rfl, rfl, rfl, by decide, by decide, by decide⟩
theorem test_witness_cfg_hold : (block codeAwaitCfg quiet).operation = .cfgHold := by decide
theorem test_witness_cfg_accept : (block codeAwaitCfg (pinsCfg cfgP2)).operation = .cfgAccept := by decide
theorem test_witness_rx_hold : (receiving1 quiet).operation = .rxHold ∧ (receiving1 quiet).Inv := by decide
theorem test_witness_rx_accept : (block codeReceiving (pinsIn w0)).operation = .rxAccept ∧
    (block codeReceiving (pinsIn w0)).Inv ∧ (0 : Nat) < params2.maxWords := by decide
theorem test_witness_full_queue : (processing 0 (pinsIn w0)).params.maxWords ≤ (processing 0 (pinsIn w0)).count := by decide
theorem test_witness_proc_wait :
    let s := { processing 0 quiet with params := { params2 with procTicks := 3 } }
    s.operation = .procWait ∧ s.Inv := by decide
theorem test_witness_proc_error : (processing 0 quiet).passResult = some (.error .invalidParameter) ∧
    (processing 0 quiet).operation = .procError ∧ (processing 0 quiet).Inv := by decide
set_option maxRecDepth 20000 in
/-- `f` of program P2 (vector I7). -/
theorem test_witness_proc_done : (processing cfgP2 quiet).passResult =
      some (.sequence [false, false, false, true, false, true, false, true, false, true]) ∧
    (processing cfgP2 quiet).operation = .procDone ∧ (processing cfgP2 quiet).Inv := by decide
theorem test_witness_unwritten_queue :
    let s := { processing 0 quiet with queue := [(1, w3)] }
    0 < s.count ∧ Memory.read s.queue 0 = none ∧ faultOf (exec .procDone s) = some (.unwrittenRead .queue) := by decide
theorem test_witness_readable_queue : ∀ i, i < (processing 0 quiet).count → Memory.read (processing 0 quiet).queue i ≠ none := by
  decide
theorem test_witness_tx_hold : (emitting 0 quiet).operation = .txHold ∧ Memory.read (emitting 0 quiet).result 0 = some w0 ∧
    (emitting 0 quiet).params.hasOutLast = true := by decide
theorem test_witness_tx_word : (emitting 1 pinsOut).operation = .txWord ∧ (emitting 1 pinsOut).Inv ∧
    Memory.read (emitting 1 pinsOut).result 1 = some w1 := by decide
theorem test_witness_tx_last : (emitting 2 pinsOut).operation = .txLast ∧
    Memory.read (emitting 2 pinsOut).result 2 = some w2 := by decide
theorem test_witness_unwritten_result : Memory.read (emitting 3 pinsOut).result 3 = none ∧
    faultOf (exec .txWord (emitting 3 pinsOut)) = some (.unwrittenRead .result) ∧
    faultOf (exec .txLast (emitting 3 pinsOut)) = some (.unwrittenRead .result) := by decide
theorem test_witness_bad_state : (block 5#3 quiet).operation = .badState101 ∧ (block 6#3 quiet).operation = .badState11x ∧
    (block 7#3 quiet).operation = .badState11x := by decide
theorem test_witness_drain : (processing 0 quiet).queue = Memory.ofWords [w2, w3] ∧ (processing 0 quiet).count = [w2, w3].length ∧
    Memory.read (processing 0 quiet).queue 1 = some w3 := by decide
theorem test_witness_start_offset : baseGraph 132 = .bg1 ∧ softBufferSize 132 63 = 63 ∧ 15 * 132 ≤ 33 * 63 ∧
    33 * 63 < (15 + 1) * 132 := by decide
/-- The other rows of the table of R145: `rv` = 0, `rv` = 1 on base graph 2, `rv` = 3 at the full buffer. -/
theorem test_witness_start_offset_rows : (0 * 100 ≤ 0 * softBufferSize 100 0 ∧ 0 * softBufferSize 100 0 < (0 + 1) * 100) ∧
    (baseGraph 100 = .bg2 ∧ 13 * 100 ≤ 13 * softBufferSize 100 0 ∧ 13 * softBufferSize 100 0 < (13 + 1) * 100) ∧
    (56 * 132 ≤ 56 * softBufferSize 132 0 ∧ 56 * softBufferSize 132 0 < (56 + 1) * 132) := by decide
theorem test_witness_output_length : (0 : Nat) < 32 ∧ (31 : Nat) < 32 ∧ (32 : Nat) ≤ 32 := by decide
theorem test_witness_selection : (0 : Nat) < 3 ∧ 3 ≤ [TriBit.filler, .filler, .one].length ∧
    select [.filler, .filler, .one] 3 0 3 = some [true, true, true] := by decide
theorem test_witness_selection_stuck : select [.filler, .filler] 2 0 1 = none ∧
    (∀ p, p < 2 → [TriBit.filler, .filler][p]? = some .filler) := by decide
theorem test_witness_interleave : [true, false, true].length % 2 ≠ 0 ∧ [true, false, true].length % 3 = 0 ∧
    interleave [true, false, true] 3 = .ok [true, false, true] := by decide
theorem test_witness_checks : (decodeConfig 0).inlen = 0 ∧ (decodeConfig 1).inlen ≠ 0 ∧
    ([] : List TriBit).length < (decodeConfig 1).inlen.toNat ∧ (decodeConfig 1).inlen.toNat ≤ [TriBit.one].length ∧
    (decodeConfig 1).nlayers.toNat * (decodeConfig 1).qm.toNat = 0 ∧
    (decodeConfig 0x022500010001#47).nlayers.toNat * (decodeConfig 0x022500010001#47).qm.toNat ≠ 0 ∧
    (decodeConfig 0x022500010001#47).inlen.toNat ≤ [TriBit.one].length := by decide
/-- A configuration of inlen 1, outlen 1, one layer, `Qm` 1 reads one position of the sequence. -/
theorem test_witness_output_bits : ∀ p, p < softBufferSize 1 1 → [TriBit.one, .filler][p]? ≠ some .filler := by decide
theorem test_witness_reads_buffer :
    let c := decodeConfig 0x022500010001#47
    c.inlen.toNat ≤ [TriBit.one, .zero].length ∧ c.inlen.toNat ≤ [TriBit.one, .filler].length ∧
    [TriBit.one, .zero].take (softBufferSize c.inlen.toNat c.nref.toNat) =
      [TriBit.one, .filler].take (softBufferSize c.inlen.toNat c.nref.toNat) := by decide
theorem test_witness_pass_error : (processing 0 quiet).Inv ∧ (processing 0 quiet).cfg.inlen = 0 ∧
    (processing 0x0084012C012C#47 quiet).Inv ∧ 128 * params2.maxWords < (processing 0x0084012C012C#47 quiet).cfg.inlen.toNat :=
  ⟨by decide, by decide, by decide, by decide⟩
theorem test_witness_chunk_undoes : assembled [w3] =
    ([true] ++ List.replicate 126 false ++ [true]).map TriBit.ofBool := by decide

/-- A build of one data word and one processing tick, waiting for a configuration with a whole pass of inputs. -/
def passBlock (c : CfgWord) : State :=
  { State.reset with params := { Params.default with maxWords := 1 }, state := codeAwaitCfg,
                     script := pinsCfg c :: ([pinsIn w3] ++ [quiet] ++ [pinsOut] ++ [quiet]) }

set_option maxRecDepth 20000 in
/-- `inlen` 1, `outlen` 1, one layer, `Qm` 1 (vector V6): one bit, one word. -/
theorem test_witness_pass : (passBlock 0x022500010001#47).Inv ∧
    rateMatch .floor (assembled ([pinsIn w3].map Pins.inData)) (decodeConfig 0x022500010001#47) = .sequence [true] ∧
    [pinsOut].length = ([true].length + 127) / 128 ∧ (∀ p ∈ [pinsOut], p.rst = false ∧ p.outReady = true) ∧
    (∀ p ∈ [pinsIn w3], p.rst = false ∧ p.inValid = true) ∧ (∀ p ∈ [quiet], p.rst = false) :=
  ⟨by decide, by decide, by decide, by decide, by decide, by decide⟩
theorem test_witness_failed_pass : (passBlock 0).Inv ∧
    rateMatch .floor (assembled ([pinsIn w3].map Pins.inData)) (decodeConfig 0) = .error .invalidParameter := by decide
theorem test_witness_emission : (emitting 0 pinsOut).Inv ∧ (emitting 0 pinsOut).result = Memory.ofWords [w0, w1, w2] ∧
    (emitting 0 pinsOut).script = [pinsOut] ++ [] ∧ 0 + [pinsOut].countP Pins.outReady < 3 := by decide
/-- Program P6's `IN_HOLD`. -/
theorem test_witness_stimulus :
    let u : Stimulus := { cfgs := [cfgP2], datas := [w0], rstTicks := [0], stalls := [6], holds := [3] }
    let s : State := { block codeReceiving quiet with script := [stimulusPins u 3] }
    s.pins.inValid = false ∧ s.pins.cfgValid = true ∧ 3 ∈ u.holds ∧ (4 : Nat) ∉ u.holds ∧ s.inReady = true := by decide

end Sys2Proof.Tests
end

/-! PROOFS. The registers of the block: their values after reset, who writes the error status, what the outputs are functions
of, and when the data inputs are read (spec/10_state.md). -/

namespace Sys2Proof.Machine

open Sys2Proof

/-! ### The conditions under which the operations that read a data input are chosen -/

theorem State.operation_eq_cfgAccept {s : State} :
    s.operation = .cfgAccept ↔ s.pins.rst = false ∧ s.state = codeAwaitCfg ∧ s.pins.cfgValid = true := by
  rw [State.operation_eq]
  split_ifs <;> simp_all

theorem State.operation_eq_rxAccept {s : State} :
    s.operation = .rxAccept ↔
      s.pins.rst = false ∧ s.state = codeReceiving ∧ s.pins.inValid = true ∧ s.count + 1 ≠ s.params.maxWords := by
  rw [State.operation_eq]
  split_ifs <;> simp_all [State.final]

theorem State.operation_eq_rxAcceptFill {s : State} :
    s.operation = .rxAcceptFill ↔
      s.pins.rst = false ∧ s.state = codeReceiving ∧ s.pins.inValid = true ∧ s.count + 1 = s.params.maxWords := by
  rw [State.operation_eq]
  split_ifs <;> simp_all [State.final]

/-- CFG_ACCEPT runs only on a configuration transfer (R105, R206). -/
theorem State.cfgXfer_of_cfgAccept {s : State} (op : s.operation = .cfgAccept) : s.cfgXfer = true := by
  obtain ⟨rst, st, valid⟩ := State.operation_eq_cfgAccept.1 op
  simp [State.cfgXfer, State.cfgReady, rst, st, valid]

/-- Where the queue has room, RX_ACCEPT runs only on a data transfer (R127, R206). -/
theorem State.inXfer_of_rxAccept {s : State} (op : s.operation = .rxAccept) (room : s.count < s.params.maxWords) :
    s.inXfer = true := by
  obtain ⟨rst, st, valid, -⟩ := State.operation_eq_rxAccept.1 op
  simp [State.inXfer, State.inReady, rst, st, valid, room]

/-- RX_ACCEPT_FILL runs only on a data transfer (R128, R206). -/
theorem State.inXfer_of_rxAcceptFill {s : State} (op : s.operation = .rxAcceptFill) : s.inXfer = true := by
  obtain ⟨rst, st, valid, last⟩ := State.operation_eq_rxAcceptFill.1 op
  have room : s.count < s.params.maxWords := by omega
  simp [State.inXfer, State.inReady, rst, st, valid, room]

/-! ### The state with other words on this tick's data inputs -/

/-- The same state with other values on the three data inputs of this tick; the handshake inputs stay. -/
def State.withData (d : CfgWord) (w : Word) (b : Bool) (s : State) : State :=
  { s with script := { s.pins with cfgData := d, inData := w, inLast := b } :: s.script.tail }

section
variable (d : CfgWord) (w : Word) (b : Bool) (s : State)

@[simp] theorem State.withData_pins :
    (s.withData d w b).pins = { s.pins with cfgData := d, inData := w, inLast := b } := rfl

/-- The input sample is used up with the tick, so the change does not outlive it. -/
@[simp] theorem State.withData_endTick : (s.withData d w b).endTick = s.endTick := rfl

@[simp] theorem State.withData_passResult : (s.withData d w b).passResult = s.passResult := rfl

@[simp] theorem State.withData_offered :
    Memory.read (s.withData d w b).result (s.withData d w b).idx = Memory.read s.result s.idx := rfl

/-- The selector is formed from the handshake inputs and the registers (R80). -/
@[simp] theorem State.withData_operation : (s.withData d w b).operation = s.operation := rfl

theorem State.withData_of_script {p : Pins} {rest : List Pins} (h : s.script = p :: rest) :
    s.withData d w b = { s with script := { p with cfgData := d, inData := w, inLast := b } :: rest } := by
  simp [State.withData, State.pins, h]

end

/-- A word offered to the queue matters only where the queue has room (R122). -/
theorem State.offer_withData_endTick {d : CfgWord} {w : Word} {b : Bool} {s : State}
    (h : s.count < s.params.maxWords → w = s.pins.inData) :
    ((s.withData d w b).offer w).endTick = (s.offer s.pins.inData).endTick := by
  by_cases room : s.count < s.params.maxWords
  · obtain rfl := h room
    simp [State.offer, State.withData, State.endTick, room]
  · simp [State.offer, State.withData, State.endTick, room]

/-- A tick reads `cfg_data` and `in_data` on their transfers only, and `in_last` never (R34, R124). -/
theorem step_withData {d : CfgWord} {w : Word} {b : Bool} {s : State}
    (hcfg : s.cfgXfer = true → d = s.pins.cfgData) (hin : s.inXfer = true → w = s.pins.inData) :
    step (s.withData d w b) = step s := by
  unfold step
  rw [State.withData_operation]
  cases op : s.operation with
  | cfgAccept =>
    obtain rfl := hcfg (State.cfgXfer_of_cfgAccept op)
    rfl
  | rxAccept =>
    exact congrArg Host.Outcome.next
      (State.offer_withData_endTick fun room => hin (State.inXfer_of_rxAccept op room))
  | rxAcceptFill =>
    obtain rfl := hin (State.inXfer_of_rxAcceptFill op)
    rfl
  | procError | procDone =>
    simp only [exec, execProcError, execProcDone, State.withData_passResult]
    rcases s.passResult with _ | (_ | _ | _) <;> rfl
  | txWord | txLast =>
    simp only [exec, execTxWord, execTxLast, State.withData_offered]
    cases Memory.read s.result s.idx <;> rfl
  | reset | idleAdvance | cfgHold | rxHold | procWait | txHold | badState101 | badState11x => rfl

/-! ### The error status -/

@[simp] theorem State.offer_err (w : Word) (s : State) : (s.offer w).err = s.err := by
  unfold State.offer
  split <;> rfl

theorem State.errCode_of_not_rst {s : State} (h : s.pins.rst = false) : s.errCode = s.err := by
  simp [State.errCode, h]

/-- What a tick can do to `err` (R32): clear it, write the code of the error RateMatch raises, or keep it. -/
theorem StepCase.err_cases {s u : State} (h : StepCase s u) :
    (s.operation ∈ [Instr.reset, .cfgAccept, .badState101, .badState11x] ∧ u.err = errNone) ∨
    (s.operation = .procError ∧ ∃ k, s.passResult = some (.error k) ∧ u.err = ErrorKind.code k) ∨
    (s.operation ∉ [Instr.reset, .cfgAccept, .badState101, .badState11x, .procError] ∧ u.err = s.err) := by
  cases h with
  | reset _ op | cfgAccept _ _ _ op | badState101 _ _ op | badState11x _ _ op => exact .inl ⟨by simp [op], rfl⟩
  | procError _ _ _ k raised op => exact .inr (.inl ⟨op, k, raised, rfl⟩)
  | rxAccept _ _ _ _ op => exact .inr (.inr ⟨by simp [op], State.offer_err _ _⟩)
  | idleAdvance _ _ op | cfgHold _ _ _ op | rxHold _ _ _ op | rxAcceptFill _ _ _ _ op | procWait _ _ _ op
  | procDone _ _ _ _ _ op | txHold _ _ _ op | txWord _ _ _ _ _ _ op | txLast _ _ _ _ _ _ op =>
    exact .inr (.inr ⟨by simp [op], rfl⟩)

/-! ### The outputs -/

/-- The status outputs see of the inputs `rst` alone, and nothing of the model's own fields (R35). -/
theorem State.statusOutputs_of_rst_eq {s : State} {script : List Pins} {sent : List Emission} {tick : Nat}
    (h : ({ s with script := script, sent := sent, tick := tick } : State).pins.rst = s.pins.rst) :
    ({ s with script := script, sent := sent, tick := tick } : State).statusOutputs = s.statusOutputs := by
  simp only [State.statusOutputs, State.cfgReady, State.inReady, State.outValid, State.outLast, State.errCode,
    State.atLastWord, h]

/-- The word on `out_data` while a word is offered (R203). -/
theorem State.outData_of_outValid {s : State} (h : s.outValid = true) :
    s.outData = (Memory.read s.result s.idx).elim (.error (.unwrittenRead .result)) .ok := by
  rw [State.outData, if_pos h]
  cases Memory.read s.result s.idx <;> rfl

/-! ### The obligations -/

/-- Settles O18, from the three things a tick can do to `err`. -/
theorem errorStatusIsWrittenOnlyAsStated : Obligations.ErrorStatusIsWrittenOnlyAsStated := by
  intro s t h
  obtain ⟨u, hu, rfl⟩ := step_cases h
  have shown : u.endTick.pins.rst = false → u.endTick.errCode = u.endTick.err := State.errCode_of_not_rst
  rcases hu.err_cases with ⟨op, cleared⟩ | ⟨op, raised⟩ | ⟨op, kept⟩
  · exact ⟨fun _ => cleared, fun opError => absurd op (by simp [opError]),
      fun n₁ n₂ n₃ n₄ _ => absurd op (by simp [n₁, n₂, n₃, n₄]), shown⟩
  · exact ⟨fun opClear => by simp [op] at opClear, fun _ => raised, fun _ _ _ _ n => absurd op n, shown⟩
  · exact ⟨fun opClear => absurd (by rcases opClear with h | h | h | h <;> simp [h]) op,
      fun opError => absurd (by simp [opError]) op, fun _ _ _ _ _ => kept, shown⟩

/-- Settles O24. -/
theorem dataInputsAreReadOnlyOnTheirTransfer : Obligations.DataInputsAreReadOnlyOnTheirTransfer := by
  intro s p rest d w b script hcfg hin
  have pins : s.pins = p := by simp [State.pins, script]
  rw [← State.withData_of_script d w b s script]
  exact step_withData (pins ▸ hcfg) (pins ▸ hin)

/-- Settles O7. -/
theorem stateAfterResetHoldsTheResetValues : Obligations.StateAfterResetHoldsTheResetValues :=
  ⟨rfl, rfl, rfl, rfl, rfl, rfl, Memory.read_nil, Memory.read_nil⟩

/-- Settles O23: the offered word is the entry of the result store at `idx`, neither of which is an input. -/
theorem outputsDependOnRegistersAndResetOnly : Obligations.OutputsDependOnRegistersAndResetOnly := by
  intro s script sent tick s' rst
  have outputs : s'.statusOutputs = s.statusOutputs := State.statusOutputs_of_rst_eq rst
  refine ⟨outputs, fun offered => ?_⟩
  have offered' : s'.outValid = true := (congrArg (·.2.2.1) outputs).trans offered
  rw [State.outData_of_outValid offered', State.outData_of_outValid offered]

end Sys2Proof.Machine

/-! PROOFS. The word stores: the sequence that the drain of the queue returns (spec/20_memory.md). -/

namespace Sys2Proof.Machine

open Sys2Proof

/-! ### The bits of an assembled sequence -/

/-- Every word takes 128 places of an assembled sequence, so place `128 i + t` is place `t` of word `i` (R55). -/
theorem flatMap_wordBits_getElem? (ws : List Word) (i t : Nat) (ht : t < 128) :
    (ws.flatMap wordBits)[128 * i + t]? = ws[i]?.map fun w => TriBit.ofBool (w.getLsbD (127 - t)) := by
  induction ws generalizing i with
  | nil => rfl
  | cons w ws ih =>
    rw [List.flatMap_cons]
    cases i with
    | zero =>
      rw [List.getElem?_append_left (by rw [wordBits_length]; omega), Nat.mul_zero, Nat.zero_add, wordBits_getElem? w t ht]
      rfl
    | succ i =>
      have skipHead : 128 * (i + 1) + t - (wordBits w).length = 128 * i + t := by rw [wordBits_length]; omega
      rw [List.getElem?_append_right (by rw [wordBits_length]; omega), skipHead, ih, List.getElem?_cons_succ]

/-! ### The obligation -/

/-- Settles O42: the drain reads back the listed words, and each takes 128 places of the sequence. -/
theorem drainConcatenatesWordsMsbFirst : Obligations.DrainConcatenatesWordsMsbFirst := by
  intro s ws hq hc
  refine ⟨_, State.drainBits_of_queue hq hc, by rw [hc, flatMap_wordBits_length], fun i j w hj read => ?_⟩
  have entry : ws[i]? = some w := by rw [← Memory.read_ofWords, ← hq, read]
  rw [flatMap_wordBits_getElem? ws i j hj, entry]
  rfl

end Sys2Proof.Machine

/-! PROOFS. The configuration codec: the fields that the decoder extracts, and the two operations of the `AWAIT_CFG` state
(spec/41_config_codec.md). -/

namespace Sys2Proof.Machine

open Sys2Proof

/-! ### The fields of the configuration word -/

/-- A field of a word, read as an unsigned number, is a digit of the word's number in base 2: divide away the bits below the
field, keep as many as it is wide (R72). -/
theorem extractLsb'_toNat_eq_div_mod {w : Nat} (x : BitVec w) (offset width : Nat) :
    (x.extractLsb' offset width).toNat = x.toNat / 2 ^ offset % 2 ^ width := by
  rw [BitVec.extractLsb'_toNat, Nat.shiftRight_eq_div_pow]

/-! ### When CFG_HOLD is chosen, and what the configuration operations do to the state -/

theorem State.operation_eq_cfgHold {s : State} :
    s.operation = .cfgHold ↔ s.pins.rst = false ∧ s.state = codeAwaitCfg ∧ s.pins.cfgValid = false := by
  rw [State.operation_eq]
  split_ifs <;> simp_all

theorem exec_cfgHold (s : State) : exec .cfgHold s = .next s := rfl

theorem exec_cfgAccept (s : State) :
    exec .cfgAccept s =
      .next { s with cfg := decodeConfig s.pins.cfgData, err := errNone, state := codeReceiving } := rfl

/-! ### The ready outputs, by the state code (R200, R201) -/

theorem State.cfgReady_of_awaitCfg {s : State} (rst : s.pins.rst = false) (st : s.state = codeAwaitCfg) :
    s.cfgReady = true := by
  simp [State.cfgReady, rst, st]

theorem State.cfgReady_of_state_ne {s : State} (st : s.state ≠ codeAwaitCfg) : s.cfgReady = false := by
  simp [State.cfgReady, st]

theorem State.inReady_of_state_ne {s : State} (st : s.state ≠ codeReceiving) : s.inReady = false := by
  simp [State.inReady, st]

theorem State.inReady_of_awaitCfg {s : State} (st : s.state = codeAwaitCfg) : s.inReady = false :=
  State.inReady_of_state_ne (st ▸ codeAwaitCfg_ne_codeReceiving)

/-- The error output shows no error while `err` holds none, on a reset tick too (R205). -/
theorem State.errCode_of_err {s : State} (err : s.err = errNone) : s.errCode = 0 := by
  rw [State.errCode, err, errNone, ite_self]

/-! ### The obligations -/

/-- Settles O4: each field is the digit at its offset; for `inlen` the offset is 0. -/
theorem configDecodeExtractsSixFields : Obligations.ConfigDecodeExtractsSixFields := by
  intro cw
  have inlen : (cw.extractLsb' 0 16).toNat = cw.toNat % 2 ^ 16 := by
    rw [extractLsb'_toNat_eq_div_mod, Nat.pow_zero, Nat.div_one]
  exact ⟨inlen, extractLsb'_toNat_eq_div_mod cw 16 16, extractLsb'_toNat_eq_div_mod cw 32 2,
    extractLsb'_toNat_eq_div_mod cw 34 3, extractLsb'_toNat_eq_div_mod cw 37 4, extractLsb'_toNat_eq_div_mod cw 41 6⟩

/-- Settles O28: `cfg_ready` is 1, so that no configuration word is transferred is due to `cfg_valid` = 0 alone. -/
theorem cfgHoldWaitsForAConfiguration : Obligations.CfgHoldWaitsForAConfiguration := by
  refine fun s => ⟨State.operation_eq_cfgHold, exec_cfgHold s, fun op => ?_⟩
  obtain ⟨rst, st, noWord⟩ := State.operation_eq_cfgHold.1 op
  have inReady : s.inReady = false := State.inReady_of_awaitCfg st
  exact ⟨State.cfgReady_of_awaitCfg rst st, inReady, by rw [State.cfgXfer, noWord, Bool.false_and],
    by rw [State.inXfer, inReady, Bool.and_false]⟩

/-- Settles O29: the next tick begins in `RECEIVING` with `err` cleared, whatever its inputs are. -/
theorem cfgAcceptTakesOneConfigurationWord : Obligations.CfgAcceptTakesOneConfigurationWord := by
  refine fun s => ⟨State.operation_eq_cfgAccept, exec_cfgAccept s, fun op => ?_⟩
  obtain ⟨rst, st, -⟩ := State.operation_eq_cfgAccept.1 op
  refine ⟨State.cfgReady_of_awaitCfg rst st, State.cfgXfer_of_cfgAccept op, State.inReady_of_awaitCfg st, fun t next => ?_⟩
  obtain ⟨u, accepted, rfl⟩ := step_eq_next.1 next
  rw [op, exec_cfgAccept] at accepted
  cases accepted
  exact ⟨State.cfgReady_of_state_ne codeReceiving_ne_codeAwaitCfg, State.errCode_of_err rfl⟩

end Sys2Proof.Machine

/-! PROOFS. The input assembler: the three operations of the `RECEIVING` state (spec/42_input_assembler.md). -/

namespace Sys2Proof.Machine

open Sys2Proof

/-! ### When RX_HOLD is chosen, and what the operations of `RECEIVING` do to the state -/

theorem State.operation_eq_rxHold {s : State} :
    s.operation = .rxHold ↔ s.pins.rst = false ∧ s.state = codeReceiving ∧ s.pins.inValid = false := by
  rw [State.operation_eq]
  split_ifs <;> simp_all

theorem exec_rxHold (s : State) : exec .rxHold s = .next s := rfl

theorem exec_rxAccept (s : State) : exec .rxAccept s = .next (s.offer s.pins.inData) := rfl

theorem exec_rxAcceptFill (s : State) :
    exec .rxAcceptFill s =
      .next { s with queue := Memory.write s.queue s.count s.pins.inData, count := s.params.maxWords, procCnt := 0,
                     state := codeProcessing } := rfl

/-- A tick ends in what its operation answers, with the tick counted. -/
theorem State.eq_endTick_of_step {s t u : State} {i : Instr} (op : s.operation = i) (run : exec i s = .next u)
    (next : step s = .next t) : t = u.endTick := by
  obtain ⟨u', run', rfl⟩ := step_eq_next.1 next
  rw [op, run] at run'
  cases run'
  rfl

/-! ### The queue's room and its flags -/

/-- A word offered to a queue with room is queued at `count` (R122). -/
theorem State.offer_of_room {s : State} (w : Word) (room : s.count < s.params.maxWords) :
    s.offer w = { s with queue := Memory.write s.queue s.count w, count := s.count + 1 } :=
  if_pos room

/-- The invariant leaves room in the queue while words are received (R36). -/
theorem State.Inv.room_of_receiving {s : State} (inv : s.Inv) (st : s.state = codeReceiving) :
    s.count < s.params.maxWords := by
  obtain ⟨-, -, ⟨-, -, receiving, -, -⟩, -, -⟩ := inv
  exact (receiving st).1

theorem State.inReady_of_room {s : State} (rst : s.pins.rst = false) (st : s.state = codeReceiving)
    (room : s.count < s.params.maxWords) : s.inReady = true := by
  simp [State.inReady, rst, st, room]

theorem State.cfgReady_of_receiving {s : State} (st : s.state = codeReceiving) : s.cfgReady = false :=
  State.cfgReady_of_state_ne (st ▸ codeReceiving_ne_codeAwaitCfg)

theorem State.isReady_eq_true {s : State} : s.isReady = true ↔ s.count = s.params.maxWords := beq_iff_eq

theorem State.isReady_eq_false {s : State} : s.isReady = false ↔ s.count ≠ s.params.maxWords := beq_eq_false_iff_ne

/-! ### The obligations -/

/-- Settles O31: the selector's condition keeps the accepted word from being the `MAX_WORDS`-th, so `isReady` stays false, and
with the room that the invariant gives it excludes `MAX_WORDS` = 1. -/
theorem rxAcceptQueuesOneWord : Obligations.RxAcceptQueuesOneWord := by
  intro s
  have run (room : s.count < s.params.maxWords) :
      exec .rxAccept s =
        .next { s with queue := Memory.write s.queue s.count s.pins.inData, count := s.count + 1 } := by
    rw [exec_rxAccept, State.offer_of_room _ room]
  refine ⟨State.operation_eq_rxAccept, fun room => ?_, fun inv op => ?_⟩
  · exact ⟨_, run room, Memory.read_write_same _ _ _, fun a other => Memory.read_write_other _ _ a _ other⟩
  · obtain ⟨-, st, -, notLast⟩ := State.operation_eq_rxAccept.1 op
    have room := inv.room_of_receiving st
    refine ⟨State.inXfer_of_rxAccept op room, room, by omega, fun t next => ?_⟩
    obtain rfl := State.eq_endTick_of_step op (run room) next
    exact State.isReady_eq_false.2 notLast

/-- Settles O33: the filling word is the last there is room for; the next tick begins in `PROCESSING`, where `in_ready` is 0
whatever its inputs are. -/
theorem rxAcceptFillStartsProcessing : Obligations.RxAcceptFillStartsProcessing := by
  refine fun s => ⟨fun wf => ?_, ?_, fun op => ?_⟩
  · obtain ⟨capacity, -, -⟩ := wf
    have last : s.count + 1 = s.params.maxWords ↔ s.count = s.params.maxWords - 1 := by omega
    rw [State.operation_eq_rxAcceptFill, last]
  · exact ⟨_, exec_rxAcceptFill s, Memory.read_write_same _ _ _, fun a other => Memory.read_write_other _ _ a _ other⟩
  · obtain ⟨rst, st, -, last⟩ := State.operation_eq_rxAcceptFill.1 op
    have room : s.count < s.params.maxWords := by omega
    refine ⟨State.inReady_of_room rst st room, State.inXfer_of_rxAcceptFill op, fun t next => ?_⟩
    obtain rfl := State.eq_endTick_of_step op (exec_rxAcceptFill s) next
    exact ⟨State.inReady_of_state_ne codeProcessing_ne_codeReceiving, State.isReady_eq_true.2 rfl, rfl⟩

/-- Settles O30: `cfg_ready` is 0 outside `AWAIT_CFG`, so `cfg_valid` has no effect. -/
theorem rxHoldWaitsForADataWord : Obligations.RxHoldWaitsForADataWord := by
  refine fun s => ⟨State.operation_eq_rxHold, exec_rxHold s, fun op => ?_⟩
  obtain ⟨rst, st, -⟩ := State.operation_eq_rxHold.1 op
  have cfgReady : s.cfgReady = false := State.cfgReady_of_receiving st
  exact ⟨cfgReady, by rw [State.cfgXfer, cfgReady, Bool.and_false],
    fun inv => State.inReady_of_room rst st (inv.room_of_receiving st)⟩

end Sys2Proof.Machine

/-! PROOFS. The quantities of the rate matcher that a configuration fixes before any bit is read: the soft-buffer size, the base
graph, the lifting size, the starting offset and the output length (spec/43_rate_matcher.md, R141 to R148). -/

namespace Sys2Proof.Machine

open Sys2Proof

/-! ### Steps 2 and 3: the soft-buffer size, the base graph and the lifting size -/

@[simp] theorem softBufferSize_zero (inlen : Nat) : softBufferSize inlen 0 = inlen := if_pos rfl

theorem softBufferSize_of_ne_zero (inlen : Nat) {nref : Nat} (limited : nref ≠ 0) :
    softBufferSize inlen nref = min inlen nref := if_neg limited

/-- A limit on the buffer only shortens it (R141). -/
theorem softBufferSize_le (inlen nref : Nat) : softBufferSize inlen nref ≤ inlen := by
  by_cases limited : nref = 0
  · rw [limited, softBufferSize_zero]
  · rw [softBufferSize_of_ne_zero inlen limited]
    exact Nat.min_le_left inlen nref

theorem baseGraph_eq_bg1 {inlen : Nat} : baseGraph inlen = .bg1 ↔ ∃ z ∈ liftingSizes, inlen = 66 * z := by
  simp [baseGraph]

theorem BaseGraph.eq_bg2_iff {bgn : BaseGraph} : bgn = .bg2 ↔ bgn ≠ .bg1 := by
  cases bgn <;> decide

theorem columnCount_eq (bgn : BaseGraph) : columnCount bgn = if bgn = .bg1 then 66 else 50 := by
  cases bgn <;> rfl

/-- On base graph 1 the division by the column count is exact (R144). -/
theorem liftingSize_mul {z : Nat} (listed : z ∈ liftingSizes) : liftingSize (66 * z) = z := by
  have bg1 : baseGraph (66 * z) = .bg1 := baseGraph_eq_bg1.2 ⟨z, listed, rfl⟩
  rw [liftingSize, bg1]
  exact Nat.mul_div_cancel_left z (by decide)

/-! ### Step 4: the table of the starting offset (R145) -/

@[simp] theorem offsetNumerator_zero (bgn : BaseGraph) : offsetNumerator bgn 0#2 = 0 := by
  cases bgn <;> rfl

theorem offsetNumerator_one (bgn : BaseGraph) : offsetNumerator bgn 1#2 = if bgn = .bg1 then 17 else 13 := by
  cases bgn <;> rfl

theorem offsetNumerator_two (bgn : BaseGraph) : offsetNumerator bgn 2#2 = if bgn = .bg1 then 33 else 25 := by
  cases bgn <;> rfl

theorem offsetNumerator_three (bgn : BaseGraph) : offsetNumerator bgn 3#2 = if bgn = .bg1 then 56 else 43 := by
  cases bgn <;> rfl

theorem redundancyVersion_cases : ∀ rv : BitVec 2, rv = 0#2 ∨ rv = 1#2 ∨ rv = 2#2 ∨ rv = 3#2 := by decide

/-- The starting offset from the bounds that determine the floor of the exact quotient (R145, R146). -/
theorem startOffset_of_bounds {inlen nref q : Nat} {rv : BitVec 2}
    (lower : q * inlen ≤ offsetNumerator (baseGraph inlen) rv * softBufferSize inlen nref)
    (upper : offsetNumerator (baseGraph inlen) rv * softBufferSize inlen nref < (q + 1) * inlen) :
    startOffset inlen nref rv = q * liftingSize inlen := by
  rw [startOffset, Nat.div_eq_of_lt_le lower upper]

@[simp] theorem startOffset_zero (inlen nref : Nat) : startOffset inlen nref 0#2 = 0 := by
  simp [startOffset]

/-! ### Step 5: the multiples of `NQ` next to `outlen` (R147) -/

/-- `n · ⌊x / n⌋` is the multiple of `n` in the window of `n` numbers that ends at `x`. -/
theorem mul_div_eq_iff {n x e : Nat} (pos : 0 < n) : n * (x / n) = e ↔ n ∣ e ∧ e ≤ x ∧ x < e + n := by
  constructor
  · rintro rfl
    exact ⟨Nat.dvd_mul_right n _, Nat.mul_div_le x n, Nat.lt_mul_div_succ x pos⟩
  · rintro ⟨⟨q, rfl⟩, lower, upper⟩
    rw [Nat.mul_comm n q] at lower
    have upper : x < (q + 1) * n := by rwa [Nat.succ_mul, Nat.mul_comm q n]
    rw [Nat.div_eq_of_lt_le lower upper]

/-- `n · ⌈x / n⌉` is the multiple of `n` in the window of `n` numbers that begins at `x`. -/
theorem mul_ceilDiv_eq_iff {n x e : Nat} (pos : 0 < n) :
    n * ((x + n - 1) / n) = e ↔ n ∣ e ∧ x ≤ e ∧ e < x + n := by
  rw [mul_div_eq_iff pos]
  exact and_congr_right fun _ => by omega

theorem outputLength_floor (outlen nq : Nat) : outputLength .floor outlen nq = nq * (outlen / nq) := rfl

/-- `MOD_EQUIV` gives the ceiling form for every `outlen`: on a multiple of `NQ` the two forms agree. -/
theorem outputLength_modEquiv {outlen nq : Nat} (pos : 0 < nq) :
    outputLength .modEquiv outlen nq = nq * ((outlen + nq - 1) / nq) := by
  by_cases multiple : outlen % nq = 0
  · have whole : nq * (outlen / nq) = outlen := Nat.mul_div_cancel' (Nat.dvd_of_mod_eq_zero multiple)
    calc outputLength .modEquiv outlen nq
      _ = nq * (outlen / nq) := if_pos multiple
      _ = outlen := whole
      _ = nq * ((outlen + nq - 1) / nq) :=
        ((mul_ceilDiv_eq_iff pos).2 ⟨Nat.dvd_of_mod_eq_zero multiple, Nat.le_refl _, by omega⟩).symm
  · exact if_neg multiple

/-- The signed condition of `LITERAL` asks whether `⌊outlen / NQ⌋` is 0. -/
theorem outputLength_literal {outlen nq : Nat} (pos : 0 < nq) :
    outputLength .literal outlen nq = if outlen < nq then 0 else nq * ((outlen + nq - 1) / nq) := by
  have signed : (1 : Int) - ((outlen / nq : Nat) : Int) - 1 ≥ 0 ↔ outlen < nq := by
    rw [← Nat.div_eq_zero_iff_lt pos]
    generalize outlen / nq = quotient
    omega
  by_cases short : outlen < nq
  · calc outputLength .literal outlen nq
      _ = nq * (outlen / nq) := if_pos (signed.2 short)
      _ = 0 := by rw [Nat.div_eq_of_lt short, Nat.mul_zero]
      _ = _ := (if_pos short).symm
  · calc outputLength .literal outlen nq
      _ = nq * ((outlen + nq - 1) / nq) := if_neg (mt signed.1 short)
      _ = _ := (if_neg short).symm

/-! ### The obligations -/

/-- Settles O43: the list in the statement is the model's `liftingSizes`. -/
theorem bufferSizeBaseGraphAndLiftingSize : Obligations.BufferSizeBaseGraphAndLiftingSize :=
  fun inlen _ =>
    ⟨softBufferSize_zero inlen, softBufferSize_of_ne_zero inlen, baseGraph_eq_bg1,
      BaseGraph.eq_bg2_iff.trans (not_congr baseGraph_eq_bg1), by rw [liftingSize, columnCount_eq],
      fun _ listed => liftingSize_mul listed⟩

/-- Settles O44: in each row of the table, `k` is the numerator. -/
theorem startOffsetIsTheFloorOfTheExactRational : Obligations.StartOffsetIsTheFloorOfTheExactRational := by
  intro inlen nref q k rv _ row₀ row₁ row₂ row₃ lower upper
  have numerator : k = offsetNumerator (baseGraph inlen) rv := by
    rcases redundancyVersion_cases rv with rfl | rfl | rfl | rfl
    · rw [offsetNumerator_zero, row₀ rfl]
    · rw [offsetNumerator_one, row₁ rfl]
    · rw [offsetNumerator_two, row₂ rfl]
    · rw [offsetNumerator_three, row₃ rfl]
  subst numerator
  exact ⟨startOffset_of_bounds lower upper, startOffset_zero inlen nref⟩

/-- Settles O45: the two forms are the multiples of `NQ` next to `outlen`, and the mode says which is taken. -/
theorem outputLengthUnderEachMode : Obligations.OutputLengthUnderEachMode := by
  intro outlen nq pos
  refine ⟨fun e => ?floor, fun e => ?modEquiv, fun short => ?below, fun long => ?above⟩
  case floor => rw [outputLength_floor, mul_div_eq_iff pos]
  case modEquiv => rw [outputLength_modEquiv pos, mul_ceilDiv_eq_iff pos]
  case below => rw [outputLength_literal pos, if_pos short]
  case above => rw [outputLength_literal pos, if_neg (Nat.not_lt.2 long), outputLength_modEquiv pos]

end Sys2Proof.Machine

/-! PROOFS. The bit selection of the rate matcher: the walk along the circular buffer, in closed form
(spec/43_rate_matcher.md, R150 and R151). -/

namespace Sys2Proof.Machine

open Sys2Proof

/-! ### What the walk reads -/

theorem TriBit.toBool?_eq_none {x : TriBit} : TriBit.toBool? x = none ↔ x = .filler := by
  cases x <;> decide

/-- The positions of the buffer that the walk passes over. -/
theorem no_bit_iff_filler {input : List TriBit} {p : Nat} (hp : p < input.length) :
    (input[p]?).bind TriBit.toBool? = none ↔ input[p]? = some .filler := by
  rw [List.getElem?_eq_getElem hp, Option.bind_some, TriBit.toBool?_eq_none, Option.some_inj]

/-- The bit at step `j` of the walk; none on a filler (R150). -/
def walkBit (input : List TriBit) (ncb k0 j : Nat) : Option Bool := (input[(k0 + j) % ncb]?).bind TriBit.toBool?

/-- The bits at the `n` steps of the walk from step `j` on. -/
def walkBits (input : List TriBit) (ncb k0 j n : Nat) : List Bool := (List.range' j n).filterMap (walkBit input ncb k0)

section
variable {input : List TriBit} {ncb k0 : Nat}

theorem walkBits_succ_of_filler {j : Nat} (n : Nat) (read : walkBit input ncb k0 j = none) :
    walkBits input ncb k0 j (n + 1) = walkBits input ncb k0 (j + 1) n := by
  rw [walkBits, List.range'_succ, List.filterMap_cons_none read, walkBits]

theorem walkBits_succ_of_bit {j : Nat} {b : Bool} (n : Nat) (read : walkBit input ncb k0 j = some b) :
    walkBits input ncb k0 j (n + 1) = b :: walkBits input ncb k0 (j + 1) n := by
  rw [walkBits, List.range'_succ, List.filterMap_cons_some read, walkBits]

theorem walkBits_add (j m n : Nat) :
    walkBits input ncb k0 j (m + n) = walkBits input ncb k0 j m ++ walkBits input ncb k0 (j + m) n := by
  simp only [walkBits, ← List.filterMap_append, List.range'_append_1]

theorem walkBits_prefix (j : Nat) {m n : Nat} (le : m ≤ n) :
    walkBits input ncb k0 j m <+: walkBits input ncb k0 j n := by
  obtain ⟨d, rfl⟩ := Nat.exists_eq_add_of_le le
  rw [walkBits_add]
  exact List.prefix_append _ _

/-- The bits from the first step on, in the words of R150. -/
theorem walkBits_from_zero (n : Nat) :
    walkBits input ncb k0 0 n = (List.range n).filterMap fun j => (input[(k0 + j) % ncb]?).bind TriBit.toBool? := by
  rw [walkBits, List.range_eq_range']
  rfl

/-- The first bits of a walk are the bits of a shorter walk. -/
theorem exists_walkBits_eq_take (t n : Nat) :
    ∃ m, walkBits input ncb k0 0 m = (walkBits input ncb k0 0 n).take t := by
  obtain ⟨steps, firstSteps, bits⟩ := List.prefix_filterMap_iff.1 (List.take_prefix t (walkBits input ncb k0 0 n))
  rw [← List.range_eq_range', List.prefix_iff_eq_take, List.take_range, List.range_eq_range'] at firstSteps
  exact ⟨_, by rw [bits, firstSteps, walkBits]⟩

end

/-! ### How many bits `E` rounds of the buffer hold -/

section
variable {input : List TriBit} {ncb k0 : Nat} (pos : 0 < ncb)
include pos

/-- Within `Ncb` steps of any step, the walk comes past every position of the buffer. -/
theorem exists_step_at {p : Nat} (hp : p < ncb) (j : Nat) : ∃ d < ncb, (k0 + (j + d)) % ncb = p := by
  refine ⟨(p + (ncb - (k0 + j) % ncb)) % ncb, Nat.mod_lt _ pos, ?_⟩
  have below : (k0 + j) % ncb < ncb := Nat.mod_lt _ pos
  have division : (k0 + j) % ncb + ncb * ((k0 + j) / ncb) = k0 + j := Nat.mod_add_div _ _
  have whole : k0 + j + (p + (ncb - (k0 + j) % ncb)) = p + ncb * ((k0 + j) / ncb + 1) := by
    rw [Nat.mul_succ]
    omega
  rw [← Nat.add_assoc, Nat.add_mod_mod, whole, Nat.add_mul_mod_self_left, Nat.mod_eq_of_lt hp]

/-- A buffer that holds a bit gives one in every round (R150). -/
theorem walkBits_round_pos {p : Nat} {b : Bool} (hp : p < ncb) (bit : (input[p]?).bind TriBit.toBool? = some b) (j : Nat) :
    0 < (walkBits input ncb k0 j ncb).length := by
  obtain ⟨d, hd, position⟩ := exists_step_at (k0 := k0) pos hp j
  have read : walkBit input ncb k0 (j + d) = some b := by rw [walkBit, position, bit]
  exact List.length_pos_of_mem (List.mem_filterMap.2 ⟨j + d, List.mem_range'_1.2 ⟨by omega, by omega⟩, read⟩)

theorem le_length_walkBits_rounds {p : Nat} {b : Bool} (hp : p < ncb)
    (bit : (input[p]?).bind TriBit.toBool? = some b) (e : Nat) :
    e ≤ (walkBits input ncb k0 0 (e * ncb)).length := by
  induction e with
  | zero => exact Nat.zero_le _
  | succ e ih =>
    have round := walkBits_round_pos (k0 := k0) pos hp bit (0 + e * ncb)
    rw [Nat.succ_mul, walkBits_add, List.length_append]
    omega

/-- Bits that the walk finds at all it finds within `E` rounds of the buffer. -/
theorem le_length_walkBits_of_le {e n : Nat} (found : e ≤ (walkBits input ncb k0 0 n).length) :
    e ≤ (walkBits input ncb k0 0 (e * ncb)).length := by
  cases e with
  | zero => exact Nat.zero_le _
  | succ e =>
    obtain ⟨b, mem⟩ := List.exists_mem_of_length_pos (Nat.lt_of_lt_of_le (Nat.succ_pos e) found)
    obtain ⟨j, -, read⟩ := List.mem_filterMap.1 mem
    exact le_length_walkBits_rounds pos (Nat.mod_lt _ pos) read (e + 1)

end

/-! ### The closed form of the walk -/

theorem selectWalk_of_bit {input : List TriBit} {ncb k0 j : Nat} {b : Bool} (bound need : Nat)
    (read : walkBit input ncb k0 j = some b) :
    selectWalk input ncb k0 (bound + 1) (need + 1) j = (selectWalk input ncb k0 bound need (j + 1)).map (b :: ·) := by
  obtain ⟨x, element, bit⟩ := Option.bind_eq_some_iff.1 read
  cases x with
  | zero | one =>
    obtain rfl := Option.some.inj bit
    simp only [selectWalk, element]
  | filler => exact absurd bit nofun

section
variable {input : List TriBit} {ncb k0 : Nat} (pos : 0 < ncb) (fits : ncb ≤ input.length)
include pos fits

/-- Every step of the walk inspects a position of the input. -/
theorem walk_position_lt (j : Nat) : (k0 + j) % ncb < input.length :=
  Nat.lt_of_lt_of_le (Nat.mod_lt _ pos) fits

theorem selectWalk_of_filler {j : Nat} (bound need : Nat) (read : walkBit input ncb k0 j = none) :
    selectWalk input ncb k0 (bound + 1) (need + 1) j = selectWalk input ncb k0 bound (need + 1) (j + 1) := by
  have element := (no_bit_iff_filler (walk_position_lt pos fits j)).1 read
  simp only [selectWalk, element]

/-- The walk takes the first `need` bits of its `bound` steps, and has no result where there are fewer. -/
theorem selectWalk_eq (bound need j : Nat) :
    selectWalk input ncb k0 bound need j =
      if need ≤ (walkBits input ncb k0 j bound).length then some ((walkBits input ncb k0 j bound).take need) else none := by
  induction bound generalizing need j with
  | zero => cases need <;> rfl
  | succ bound ih =>
    cases need with
    | zero => simp [selectWalk]
    | succ need =>
      cases read : walkBit input ncb k0 j with
      | none => rw [selectWalk_of_filler pos fits bound need read, ih, walkBits_succ_of_filler bound read]
      | some b =>
        rw [selectWalk_of_bit bound need read, ih, walkBits_succ_of_bit bound read, List.length_cons,
          List.take_succ_cons, apply_ite (Option.map (b :: ·))]
        simp only [Nat.add_le_add_iff_right, Option.map_some, Option.map_none]

/-! ### Selection -/

theorem select_eq_some {e : Nat} {bits : List Bool} :
    select input ncb k0 e = some bits ↔
      e ≤ (walkBits input ncb k0 0 (e * ncb)).length ∧ (walkBits input ncb k0 0 (e * ncb)).take e = bits := by
  rw [select, selectWalk_eq pos fits, Option.ite_none_right_eq_some, Option.some_inj]

theorem select_eq_none {e : Nat} :
    select input ncb k0 e = none ↔ (walkBits input ncb k0 0 (e * ncb)).length < e := by
  rw [select, selectWalk_eq pos fits, ite_eq_right_iff, ← Nat.not_le]
  simp only [reduceCtorEq, imp_false]

end

/-! ### The obligations -/

/-- Settles O47: `E` rounds hold every first `E` bits there are, and two first parts of one walk with `E` bits are equal. -/
theorem selectionCollectsTheBitsInOrder : Obligations.SelectionCollectsTheBitsInOrder := by
  intro input ncb k0 e bits pos fits
  simp only [← walkBits_from_zero]
  rw [select_eq_some pos fits]
  constructor
  · rintro ⟨enough, rfl⟩
    obtain ⟨n, first⟩ := exists_walkBits_eq_take e (e * ncb)
    exact ⟨List.length_take_of_le enough, n, first.symm⟩
  · rintro ⟨rfl, n, rfl⟩
    have enough := le_length_walkBits_of_le pos (Nat.le_refl (walkBits input ncb k0 0 n).length)
    generalize (walkBits input ncb k0 0 n).length * ncb = rounds at enough ⊢
    have found : walkBits input ncb k0 0 n <+: walkBits input ncb k0 0 rounds :=
      List.prefix_of_prefix_length_le (walkBits_prefix 0 (Nat.le_max_left n rounds))
        (walkBits_prefix 0 (Nat.le_max_right n rounds)) enough
    exact ⟨enough, (List.prefix_iff_eq_take.1 found).symm⟩

/-- Settles O48: a buffer of fillers gives no bit, and one bit in it gives one in every round. -/
theorem selectionSticksExactlyOnAllFiller : Obligations.SelectionSticksExactlyOnAllFiller := by
  intro input ncb k0 e pos fits
  rw [select_eq_none pos fits]
  constructor
  · refine fun few => ⟨Nat.zero_lt_of_lt few, fun p hp => (no_bit_iff_filler (Nat.lt_of_lt_of_le hp fits)).1 ?_⟩
    rw [Option.eq_none_iff_forall_ne_some]
    exact fun b bit => Nat.not_lt.2 (le_length_walkBits_rounds pos hp bit e) few
  · rintro ⟨asked, allFiller⟩
    have noBit (j : Nat) : walkBit input ncb k0 j = none :=
      (no_bit_iff_filler (walk_position_lt pos fits j)).2 (allFiller _ (Nat.mod_lt _ pos))
    have empty : walkBits input ncb k0 0 (e * ncb) = [] := List.filterMap_eq_nil_iff.2 fun j _ => noBit j
    rwa [empty, List.length_nil]

end Sys2Proof.Machine

/-! PROOFS. The interleaver of the rate matcher: it and its inverse read a grid of positions row by row
(spec/43_rate_matcher.md, R153 and R154). -/

namespace Sys2Proof.Machine

open Sys2Proof

/-! ### Grids read row by row -/

/-- The elements `g i j`, `i < m` and `j < n`, row by row. -/
def gridRows {α : Type} (m n : Nat) (g : Nat → Nat → Option α) : List α :=
  (List.range m).flatMap fun i => (List.range n).filterMap (g i)

theorem gridRows_congr {α : Type} {m n : Nat} {g g' : Nat → Nat → Option α}
    (same : ∀ i < m, ∀ j < n, g i j = g' i j) : gridRows m n g = gridRows m n g' :=
  List.flatMap_congr fun i hi => List.filterMap_congr fun j hj => same i (List.mem_range.1 hi) j (List.mem_range.1 hj)

/-- Reading a grid by columns gives the same elements as reading it by rows. -/
theorem gridRows_perm_swap {α : Type} (m n : Nat) (g : Nat → Nat → Option α) :
    (gridRows m n g).Perm (gridRows n m fun j i => g i j) := by
  rw [← Multiset.coe_eq_coe]
  simp only [gridRows, List.filterMap_eq_flatMap_toList, ← Multiset.coe_bind]
  exact Multiset.bind_bind _ _

/-- Where every read has a value, a row is the list of its reads. -/
theorem map_some_filterMap_range {α : Type} {n : Nat} {g : Nat → Option α} (full : ∀ j < n, (g j).isSome) :
    ((List.range n).filterMap g).map some = (List.range n).map g := by
  rw [List.map_filterMap_some_eq_filter_map_isSome, List.filter_eq_self]
  intro read mem
  obtain ⟨j, hj, rfl⟩ := List.mem_map.1 mem
  exact full j (List.mem_range.1 hj)

theorem filterMap_range_length {α : Type} {n : Nat} {g : Nat → Option α} (full : ∀ j < n, (g j).isSome) :
    ((List.range n).filterMap g).length = n := by
  simpa using congrArg List.length (map_some_filterMap_range full)

theorem filterMap_range_getElem? {α : Type} {n j : Nat} {g : Nat → Option α} (full : ∀ j < n, (g j).isSome) (hj : j < n) :
    ((List.range n).filterMap g)[j]? = g j := by
  have entry : (((List.range n).filterMap g)[j]?).map some = some (g j) := by
    rw [← List.getElem?_map, map_some_filterMap_range full, List.getElem?_map, List.getElem?_range hj, Option.map_some]
  obtain ⟨x, read, value⟩ := Option.map_eq_some_iff.1 entry
  rw [read, value]

/-- Rows of one length `n` put one after the other: place `i n + j` is place `j` of row `i`. -/
theorem flatMap_getElem?_of_length {α β : Type} {rows : List β} {row : β → List α} {n j : Nat}
    (width : ∀ r ∈ rows, (row r).length = n) (i : Nat) (hj : j < n) :
    (rows.flatMap row)[i * n + j]? = rows[i]?.bind fun r => (row r)[j]? := by
  induction rows generalizing i with
  | nil => rfl
  | cons r rows ih =>
    obtain ⟨first, others⟩ := List.forall_mem_cons.1 width
    rw [List.flatMap_cons]
    cases i with
    | zero =>
      rw [List.getElem?_append_left (by omega), Nat.zero_mul, Nat.zero_add]
      rfl
    | succ i =>
      have skipRow : (i + 1) * n + j - (row r).length = i * n + j := by rw [first, Nat.succ_mul]; omega
      rw [List.getElem?_append_right (by rw [first, Nat.succ_mul]; omega), skipRow, ih others, List.getElem?_cons_succ]

section
variable {α : Type} {m n : Nat} {g : Nat → Nat → Option α} (full : ∀ i < m, ∀ j < n, (g i j).isSome)
include full

theorem gridRows_row_length {i : Nat} (hi : i ∈ List.range m) : ((List.range n).filterMap (g i)).length = n :=
  filterMap_range_length (full i (List.mem_range.1 hi))

theorem gridRows_length : (gridRows m n g).length = m * n := by
  rw [gridRows, List.length_flatMap, List.map_congr_left fun i hi => gridRows_row_length full hi]
  simp

theorem gridRows_getElem? {i j : Nat} (hi : i < m) (hj : j < n) : (gridRows m n g)[i * n + j]? = g i j := by
  rw [gridRows, flatMap_getElem?_of_length (fun i hi => gridRows_row_length full hi) i hj, List.getElem?_range hi,
    Option.bind_some, filterMap_range_getElem? (full i hi) hj]

end

theorem grid_position_lt {m n i j : Nat} (hi : i < m) (hj : j < n) : i * n + j < m * n := by
  rw [Nat.mul_comm i n]
  exact Nat.mul_add_lt_mul_of_lt_of_lt hi hj

/-- A list that fills the grid has a value at each of its positions. -/
theorem grid_entry_isSome {α : Type} {m n : Nat} {l : List α} (area : l.length = m * n) {i j : Nat} (hi : i < m)
    (hj : j < n) : (l[i * n + j]?).isSome := by
  rw [List.getElem?_eq_getElem (area ▸ grid_position_lt hi hj)]
  rfl

/-- A list laid out in rows reads back as itself. -/
theorem gridRows_self {α : Type} {m n : Nat} {l : List α} (area : l.length = m * n) :
    gridRows m n (fun i j => l[i * n + j]?) = l := by
  have full : ∀ i < m, ∀ j < n, (l[i * n + j]?).isSome := fun _ hi _ hj => grid_entry_isSome area hi hj
  refine List.ext_getElem? fun p => ?_
  by_cases inside : p < m * n
  · have hn : 0 < n := Nat.pos_of_ne_zero fun hn => by simp [hn] at inside
    have entry := gridRows_getElem? full (Nat.div_lt_of_lt_mul (Nat.mul_comm m n ▸ inside)) (Nat.mod_lt p hn)
    rwa [Nat.mul_comm, Nat.div_add_mod] at entry
  · rw [List.getElem?_eq_none (by rw [gridRows_length full]; omega), List.getElem?_eq_none (by omega)]

/-! ### Transposition -/

/-- A list laid out in `n` columns of `m` elements, one column after the other, read row by row. -/
def readByRows {α : Type} (m n : Nat) (l : List α) : List α := gridRows m n fun i j => l[j * m + i]?

section
variable {α : Type} {m n : Nat} {l : List α} (area : l.length = n * m)
include area

theorem column_entry_isSome : ∀ i < m, ∀ j < n, (l[j * m + i]?).isSome := fun _ hi _ hj => grid_entry_isSome area hj hi

theorem readByRows_length : (readByRows m n l).length = m * n := gridRows_length (column_entry_isSome area)

theorem readByRows_getElem? {i j : Nat} (hi : i < m) (hj : j < n) : (readByRows m n l)[i * n + j]? = l[j * m + i]? :=
  gridRows_getElem? (column_entry_isSome area) hi hj

theorem readByRows_perm : (readByRows m n l).Perm l := by
  have byColumns := gridRows_perm_swap m n fun i j => l[j * m + i]?
  rwa [gridRows_self area] at byColumns

/-- Transposing twice restores the list. -/
theorem readByRows_readByRows : readByRows n m (readByRows m n l) = l :=
  calc readByRows n m (readByRows m n l)
    _ = gridRows n m fun j i => l[j * m + i]? := gridRows_congr fun _ hj _ hi => readByRows_getElem? area hi hj
    _ = l := gridRows_self area

end

/-! ### The interleaver and its inverse transpose -/

theorem interleave_of_not_multiple {α : Type} {e : List α} {qm : Nat} (h : e.length % qm ≠ 0) :
    interleave e qm = .error .invalidParameter := if_pos h

theorem interleave_of_multiple {α : Type} {e : List α} {qm : Nat} (h : e.length % qm = 0) :
    interleave e qm = .ok (readByRows (e.length / qm) qm e) := if_neg (not_not_intro h)

theorem deinterleave_eq {α : Type} (f : List α) (qm : Nat) : deinterleave f qm = readByRows qm (f.length / qm) f := rfl

/-- The columns of the interleaver: `Qm` of them, of `rows` elements each. -/
theorem length_eq_of_multiple {α : Type} {e : List α} {qm : Nat} (h : e.length % qm = 0) :
    e.length = qm * (e.length / qm) := (Nat.mul_div_cancel' (Nat.dvd_of_mod_eq_zero h)).symm

theorem interleave_eq_ok {α : Type} {e f : List α} {qm : Nat} :
    interleave e qm = .ok f ↔ e.length % qm = 0 ∧ readByRows (e.length / qm) qm e = f := by
  by_cases h : e.length % qm = 0
  · simp [interleave_of_multiple h, h]
  · simp [interleave_of_not_multiple h, h]

/-! ### The obligations -/

/-- Settles O49: the interleaver lays the bits out in `Qm` columns and reads them row by row. -/
theorem interleaverTransposesColumnsToRows : Obligations.InterleaverTransposesColumnsToRows := by
  refine fun e qm _ => ⟨interleave_of_not_multiple, fun multiple => ?_⟩
  have area := length_eq_of_multiple multiple
  refine ⟨_, interleave_of_multiple multiple, ?length, fun i j hi hj => readByRows_getElem? area hi hj⟩
  case length => rw [readByRows_length area, Nat.mul_comm, ← area]

/-- Settles O50: the inverse lays out the same rectangle with rows and columns exchanged. -/
theorem interleaverIsAnInvertiblePermutation : Obligations.InterleaverIsAnInvertiblePermutation := by
  intro e f qm _ interleaved
  obtain ⟨multiple, rfl⟩ := interleave_eq_ok.1 interleaved
  have area := length_eq_of_multiple multiple
  have perm := readByRows_perm area
  exact ⟨perm, by rw [deinterleave_eq, perm.length_eq, readByRows_readByRows area]⟩

end Sys2Proof.Machine

/-! PROOFS. The rate-matching function as a whole: what it reads of its sequence (spec/43_rate_matcher.md, R156). -/

namespace Sys2Proof.Machine

open Sys2Proof

/-- The walk reads positions modulo `Ncb` only. -/
theorem selectWalk_take (input : List TriBit) {ncb : Nat} (k0 : Nat) (pos : 0 < ncb) (bound need j : Nat) :
    selectWalk (input.take ncb) ncb k0 bound need j = selectWalk input ncb k0 bound need j := by
  induction bound generalizing need j with
  | zero => cases need <;> rfl
  | succ bound ih =>
    cases need with
    | zero => rfl
    | succ need => simp only [selectWalk, List.getElem?_take_of_lt (Nat.mod_lt (k0 + j) pos), ih]

/-- Bit selection depends on the circular buffer alone, the first `Ncb` elements of its input. -/
theorem select_take (input : List TriBit) (ncb k0 e : Nat) : select (input.take ncb) ncb k0 e = select input ncb k0 e := by
  rcases Nat.eq_zero_or_pos ncb with rfl | pos
  · cases e <;> rfl
  · exact selectWalk_take input k0 pos (e * ncb) e 0

/-- Settles O53: past the length check, the sequence is read by bit selection alone. -/
theorem rateMatchReadsOnlyTheCircularBuffer : Obligations.RateMatchReadsOnlyTheCircularBuffer := by
  intro mode b b' c long long' agree
  have sameBits (k0 e : Nat) :
      select (b.take c.inlen.toNat) (softBufferSize c.inlen.toNat c.nref.toNat) k0 e =
        select (b'.take c.inlen.toNat) (softBufferSize c.inlen.toNat c.nref.toNat) k0 e := by
    rw [← select_take (b.take _), ← select_take (b'.take _), List.take_take, List.take_take,
      Nat.min_eq_left (softBufferSize_le _ _), agree]
  simp only [rateMatch, if_neg (Nat.not_lt.2 long), if_neg (Nat.not_lt.2 long'), sameBits]

end Sys2Proof.Machine

/-! PROOFS. The output chunker: the bits of its words, and the operation that holds the offered word
(spec/44_output_chunker.md, R181, R182 and R185). -/

namespace Sys2Proof.Machine

open Sys2Proof

/-! ### The bits of the chunker's words -/

/-- The words cover the sequence, so the padding is never cut off (R181). -/
theorem length_le_mul_chunkCount (e : Nat) : e ≤ 128 * chunkCount e := by
  rw [chunkCount]
  omega

theorem chunk_getElem? {f : List Bool} {k : Nat} (hk : k < chunkCount f.length) : (chunk f)[k]? = some (chunkWord f k) := by
  rw [chunk, List.getElem?_map, List.getElem?_range hk, Option.map_some]

/-- Place `p` of the words' bits is place `p` of the sequence, 0 beyond its end: it is place `p % 128` of word `p / 128`. -/
theorem assembled_chunk_getElem? {f : List Bool} {p : Nat} (hp : p < 128 * chunkCount f.length) :
    (assembled (chunk f))[p]? = some (TriBit.ofBool (f.getD p false)) := by
  have place : 128 * (p / 128) + p % 128 = p := Nat.div_add_mod p 128
  have inWord : p % 128 < 128 := Nat.mod_lt p (by decide)
  have inChunk : p / 128 < chunkCount f.length := Nat.div_lt_of_lt_mul hp
  calc (assembled (chunk f))[p]?
    _ = (assembled (chunk f))[128 * (p / 128) + p % 128]? := by rw [place]
    _ = some (TriBit.ofBool ((chunkWord f (p / 128)).getLsbD (127 - p % 128))) := by
      rw [assembled, flatMap_wordBits_getElem? _ _ _ inWord, chunk_getElem? inChunk, Option.map_some]
    _ = some (TriBit.ofBool (f.getD p false)) := by rw [chunkWord_getLsbD f _ _ inWord, place]

/-- A list padded to `n` places holds at each of them what reading the list with the padding as default gives. -/
theorem append_replicate_getElem? {α : Type} {l : List α} {d : α} {n p : Nat} (hp : p < n) :
    (l ++ List.replicate (n - l.length) d)[p]? = some (l.getD p d) := by
  by_cases inList : p < l.length
  · rw [List.getElem?_append_left inList, List.getElem?_eq_getElem inList, List.getD_eq_getElem l d inList]
  · have beyond : l.length ≤ p := Nat.not_lt.1 inList
    rw [List.getElem?_append_right beyond, List.getElem?_replicate_of_lt (by omega), List.getD_eq_default l d beyond]

theorem assembled_chunk_length (f : List Bool) : (assembled (chunk f)).length = 128 * chunkCount f.length := by
  rw [assembled, flatMap_wordBits_length, chunk_length]

/-- The words' bits are the sequence and, beyond its end, the zeros that fill the last word (R182). -/
theorem assembled_chunk (f : List Bool) :
    assembled (chunk f) =
      (f ++ List.replicate (128 * chunkCount f.length - f.length) false).map TriBit.ofBool := by
  have covers : f.length ≤ 128 * chunkCount f.length := length_le_mul_chunkCount f.length
  refine List.ext_getElem?' fun p hp => ?_
  have inChunk : p < 128 * chunkCount f.length := by
    rw [assembled_chunk_length, List.length_map, List.length_append, List.length_replicate] at hp
    omega
  rw [assembled_chunk_getElem? inChunk, List.getElem?_map, append_replicate_getElem? inChunk, Option.map_some]

/-! ### When TX_HOLD is chosen, and what it does to the state -/

theorem State.operation_eq_txHold {s : State} :
    s.operation = .txHold ↔ s.pins.rst = false ∧ s.state = codeEmitting ∧ s.pins.outReady = false := by
  rw [State.operation_eq]
  split_ifs <;> simp_all

theorem exec_txHold (s : State) : exec .txHold s = .next s := rfl

/-! ### The offer to the consumer (R202, R203, R204) -/

theorem State.outValid_of_emitting {s : State} (rst : s.pins.rst = false) (st : s.state = codeEmitting) :
    s.outValid = true := by
  simp [State.outValid, rst, st]

theorem State.outData_of_read {s : State} {w : Word} (offered : s.outValid = true)
    (read : Memory.read s.result s.idx = some w) : s.outData = .ok w := by
  rw [State.outData_of_outValid offered, read, Option.elim_some]

theorem State.outLast_of_outValid {s : State} (offered : s.outValid = true) (port : s.params.hasOutLast = true) :
    s.outLast = some (s.idx + 1 == s.nwords) := by
  rw [State.outLast, if_pos port, offered, Bool.true_and, State.atLastWord]

/-! ### The obligations -/

/-- Settles O55: a padding bit, false, is the element `zero` of the assembled sequence. -/
theorem chunkedWordsReproduceTheSequence : Obligations.ChunkedWordsReproduceTheSequence := by
  refine fun f => ⟨chunk_length f, ?_⟩
  rw [assembled_chunk, List.map_append, List.map_replicate]
  rfl

/-- Settles O38: the word stays untaken because `out_ready` is 0 alone. -/
theorem txHoldKeepsOfferingTheSameWord : Obligations.TxHoldKeepsOfferingTheSameWord := by
  refine fun s => ⟨State.operation_eq_txHold, exec_txHold s, fun op => ?_⟩
  obtain ⟨rst, st, notReady⟩ := State.operation_eq_txHold.1 op
  have offered : s.outValid = true := State.outValid_of_emitting rst st
  exact ⟨offered, by rw [State.outXfer, notReady, Bool.false_and], fun _ => State.outData_of_read offered,
    State.outLast_of_outValid offered⟩

end Sys2Proof.Machine

/-! PROOFS. The outcomes of RateMatch on the sequence that the drain returns: two error kinds or a sequence, and never no result
(spec/43_rate_matcher.md, R149, R151 and R159). -/

namespace Sys2Proof.Machine

open Sys2Proof

/-! ### RateMatch on a sequence of bits -/

theorem interleave_eq_error {α : Type} {e : List α} {qm : Nat} {k : ErrorKind} (raised : interleave e qm = .error k) :
    k = .invalidParameter := by
  by_cases multiple : e.length % qm = 0
  · rw [interleave_of_multiple multiple] at raised
    cases raised
  · rw [interleave_of_not_multiple multiple] at raised
    exact (Except.error.inj raised).symm

/-- Bit selection has a result on a buffer without fillers (R150, R151). -/
theorem select_ne_none_of_bits {input : List TriBit} {ncb : Nat} (bits : .filler ∉ input) (pos : 0 < ncb)
    (fits : ncb ≤ input.length) (k0 e : Nat) : select input ncb k0 e ≠ none := by
  intro stuck
  obtain ⟨-, allFiller⟩ := (selectionSticksExactlyOnAllFiller input ncb k0 e pos fits).1 stuck
  exact bits (List.mem_of_getElem? (allFiller 0 pos))

/-- All that RateMatch can give without fillers: its checks raise two of the error kinds, and it never sticks (R151, R159). -/
theorem rateMatch_cases_of_bits {b : List TriBit} (bits : .filler ∉ b) (mode : EMode) (c : RateMatchConfig) :
    rateMatch mode b c = .error .invalidParameter ∨ rateMatch mode b c = .error .insufficientData ∨
      ∃ f, rateMatch mode b c = .sequence f := by
  generalize result : rateMatch mode b c = r
  simp only [rateMatch] at result
  split_ifs at result with noInput short noBuffer noLayer noMultiple
  · exact .inl result.symm
  · exact .inr (.inl result.symm)
  · exact .inl result.symm
  · exact .inl result.symm
  · exact .inl result.symm
  · split at result
    next noBits =>
      have fits : softBufferSize c.inlen.toNat c.nref.toNat ≤ (b.take c.inlen.toNat).length := by
        rw [List.length_take_of_le (Nat.not_lt.1 short)]
        exact softBufferSize_le _ _
      have bitsOnly : .filler ∉ b.take c.inlen.toNat := fun mem => bits (List.mem_of_mem_take mem)
      exact absurd noBits (select_ne_none_of_bits bitsOnly (Nat.pos_of_ne_zero noBuffer) fits _ _)
    next =>
      split at result
      next interleaved =>
        obtain rfl := interleave_eq_error interleaved
        exact .inl result.symm
      next f _ => exact .inr (.inr ⟨f, result.symm⟩)

/-! ### The sequence that the drain returns -/

theorem filler_notMem_wordBits (w : Word) : .filler ∉ wordBits w := by
  intro mem
  obtain ⟨t, -, element⟩ := List.mem_map.1 mem
  cases bit : w.getLsbD (127 - t) <;> simp [TriBit.ofBool, bit] at element

/-- The drain returns bits only (R149). -/
theorem State.filler_notMem_drainBits {s : State} {b : List TriBit} (drained : s.drainBits = some b) : .filler ∉ b := by
  obtain ⟨ws, -, rfl⟩ := Option.map_eq_some_iff.1 drained
  intro mem
  obtain ⟨w, -, inWord⟩ := List.mem_flatMap.1 mem
  exact filler_notMem_wordBits w inWord

/-- All that evaluating RateMatch on the drained queue can give (R206): nothing, on an entry without a value; one of two errors;
or a sequence. -/
theorem State.passResult_cases (s : State) :
    s.passResult = none ∨ s.passResult = some (.error .invalidParameter) ∨
      s.passResult = some (.error .insufficientData) ∨ ∃ f, s.passResult = some (.sequence f) := by
  cases drained : s.drainBits with
  | none => exact .inl (by rw [State.passResult, drained, Option.map_none])
  | some b =>
    rw [State.passResult, drained, Option.map_some]
    simpa using rateMatch_cases_of_bits (State.filler_notMem_drainBits drained) s.params.eMode s.cfg

/-- The two error kinds that the block can reach (R211, R240). -/
theorem State.passResult_error_kind {s : State} {k : ErrorKind} (raised : s.passResult = some (.error k)) :
    k = .invalidParameter ∨ k = .insufficientData := by
  have outcomes := s.passResult_cases
  rw [raised] at outcomes
  simpa using outcomes

end Sys2Proof.Machine

/-! PROOFS. The stream controller: the operations of `IDLE` and `PROCESSING`, and the cycle of the states
(spec/45_stream_controller.md, R207, R208, R210 and R211). -/

namespace Sys2Proof.Machine

open Sys2Proof

/-! ### When the operations of `IDLE`, `PROCESSING` and a transfer in `EMITTING` are chosen -/

theorem State.operation_eq_idleAdvance {s : State} :
    s.operation = .idleAdvance ↔ s.pins.rst = false ∧ s.state = codeIdle := by
  rw [State.operation_eq]
  split_ifs <;> simp_all

theorem State.operation_eq_procWait {s : State} :
    s.operation = .procWait ↔
      s.pins.rst = false ∧ s.state = codeProcessing ∧ s.procCnt + 1 ≠ s.params.procTicks := by
  rw [State.operation_eq]
  split_ifs <;> simp_all [State.final]

theorem State.operation_eq_procError_iff_ok {s : State} :
    s.operation = .procError ↔
      s.pins.rst = false ∧ s.state = codeProcessing ∧ s.procCnt + 1 = s.params.procTicks ∧ s.ok = false := by
  rw [State.operation_eq]
  split_ifs <;> simp_all [State.final]

theorem State.operation_eq_procDone_iff_ok {s : State} :
    s.operation = .procDone ↔
      s.pins.rst = false ∧ s.state = codeProcessing ∧ s.procCnt + 1 = s.params.procTicks ∧ s.ok = true := by
  rw [State.operation_eq]
  split_ifs <;> simp_all [State.final]

theorem State.operation_eq_txWord {s : State} :
    s.operation = .txWord ↔
      s.pins.rst = false ∧ s.state = codeEmitting ∧ s.pins.outReady = true ∧ s.idx + 1 ≠ s.nwords := by
  rw [State.operation_eq]
  split_ifs <;> simp_all [State.final, State.atLastWord]

theorem State.operation_eq_txLast {s : State} :
    s.operation = .txLast ↔
      s.pins.rst = false ∧ s.state = codeEmitting ∧ s.pins.outReady = true ∧ s.idx + 1 = s.nwords := by
  rw [State.operation_eq]
  split_ifs <;> simp_all [State.final, State.atLastWord]

/-- The condition `ok` of the selector in `PROCESSING` (R80). -/
theorem State.ok_eq_true_of_processing {s : State} (st : s.state = codeProcessing) :
    s.ok = true ↔ ∃ f, s.passResult = some (.sequence f) := by
  rw [State.ok, if_pos st]
  rcases s.passResult with _ | (f | k | _) <;> simp

/-! ### What the operations do to the state -/

theorem exec_idleAdvance (s : State) : exec .idleAdvance s = .next { s with state := codeAwaitCfg } := rfl

theorem exec_procWait (s : State) : exec .procWait s = .next { s with procCnt := s.procCnt + 1 } := rfl

@[simp] theorem State.offer_state (w : Word) (s : State) : (s.offer w).state = s.state := by
  unfold State.offer
  split <;> rfl

theorem chunkCount_eq_zero {e : Nat} : chunkCount e = 0 ↔ e = 0 := by
  rw [chunkCount]
  omega

/-- PROC_DONE goes to `IDLE` exactly on the empty sequence (R184, R212). -/
theorem State.storeResult_state_eq_idle {f : List Bool} {s : State} : (s.storeResult f).state = codeIdle ↔ f = [] := by
  rw [State.storeResult_state, ite_eq_left_iff, chunkCount_eq_zero, List.length_eq_zero_iff]
  simp

/-- On an illegal state code the registers are cleared, with or without a reset (R215, R270). -/
theorem exec_operation_of_illegal {s : State} (illegal : ¬ s.legal) : exec s.operation s = .next s.clearAll := by
  simp only [State.legal, not_or] at illegal
  obtain ⟨idle, awaitCfg, receiving, processing, emitting⟩ := illegal
  rw [State.operation_eq, if_neg idle, if_neg awaitCfg, if_neg receiving, if_neg processing, if_neg emitting]
  split_ifs <;> rfl

/-! ### The outputs of `IDLE` and `PROCESSING` -/

theorem State.outValid_of_state_ne {s : State} (st : s.state ≠ codeEmitting) : s.outValid = false := by
  simp [State.outValid, st]

/-- Without an offered word there is no end marker (R204). -/
theorem State.outLast_ne_true {s : State} (noOffer : s.outValid = false) : s.outLast ≠ some true := by
  simp [State.outLast, noOffer]

/-- In the two states that belong to no port, every handshake output is 0 (R208, R210). -/
theorem State.handshakeOutputs_eq_zero {s : State} (st : s.state = codeIdle ∨ s.state = codeProcessing) :
    s.cfgReady = false ∧ s.inReady = false ∧ s.outValid = false ∧ s.outLast ≠ some true := by
  have notAwaitCfg : s.state ≠ codeAwaitCfg := by rcases st with st | st <;> simp [st]
  have notReceiving : s.state ≠ codeReceiving := by rcases st with st | st <;> simp [st]
  have notEmitting : s.state ≠ codeEmitting := by rcases st with st | st <;> simp [st]
  have noOffer : s.outValid = false := State.outValid_of_state_ne notEmitting
  exact ⟨State.cfgReady_of_state_ne notAwaitCfg, State.inReady_of_state_ne notReceiving, noOffer,
    State.outLast_ne_true noOffer⟩

/-! ### What the invariant gives in `PROCESSING` and `EMITTING` -/

section
variable {s : State} (inv : s.Inv)
include inv

theorem State.Inv.procTicks_pos : 0 < s.params.procTicks := by
  obtain ⟨⟨-, ticks, -⟩, -⟩ := inv
  exact ticks

theorem State.Inv.procCnt_lt (st : s.state = codeProcessing) : s.procCnt < s.params.procTicks := by
  obtain ⟨-, -, ⟨-, -, -, processing, -⟩, -⟩ := inv
  obtain ⟨-, below, -⟩ := processing st
  exact below

/-- The drain finds a word at every entry below `count` (R26, R36). -/
theorem State.Inv.passResult_ne_none : s.passResult ≠ none := by
  obtain ⟨-, -, -, ⟨queueKeys, -⟩, -⟩ := inv
  have words : (s.queue.map Prod.snd).length = s.count := by simpa using congrArg List.length queueKeys
  simp [State.passResult, State.drainBits_of_queue (Memory.eq_ofWords_of_keys queueKeys) words.symm]

/-- RateMatch raises an error or returns a sequence (R206): the model's other outcomes do not occur. -/
theorem State.Inv.passResult_error_or_sequence :
    (∃ k, s.passResult = some (.error k)) ∨ ∃ f, s.passResult = some (.sequence f) := by
  rcases s.passResult_cases with unread | raised | raised | returned
  · exact absurd unread inv.passResult_ne_none
  · exact .inl ⟨_, raised⟩
  · exact .inl ⟨_, raised⟩
  · exact .inr returned

/-- The word at `idx` is there while words are emitted (R29, R36). -/
theorem State.Inv.exists_offered (st : s.state = codeEmitting) : ∃ w, Memory.read s.result s.idx = some w := by
  obtain ⟨-, -, ⟨-, -, -, -, emitting⟩, ⟨-, resultKeys⟩, -⟩ := inv
  obtain ⟨-, -, -, -, below⟩ := emitting st
  have words : (s.result.map Prod.snd).length = s.nwords := by simpa using congrArg List.length resultKeys
  rw [Memory.eq_ofWords_of_keys resultKeys, Memory.read_ofWords]
  exact ⟨_, List.getElem?_eq_getElem (words ▸ below)⟩

/-- In `PROCESSING` the condition `ok` is 0 exactly on an error (R80). -/
theorem State.Inv.ok_eq_false (st : s.state = codeProcessing) :
    s.ok = false ↔ ∃ k, s.passResult = some (.error k) := by
  rw [← Bool.not_eq_true, State.ok_eq_true_of_processing st]
  rcases inv.passResult_error_or_sequence with ⟨k, raised⟩ | ⟨f, returned⟩
  · simp [raised]
  · simp [returned]

theorem State.Inv.operation_eq_procError :
    s.operation = .procError ↔
      s.pins.rst = false ∧ s.state = codeProcessing ∧ s.procCnt + 1 = s.params.procTicks ∧
      ∃ k, s.passResult = some (.error k) := by
  rw [State.operation_eq_procError_iff_ok]
  refine and_congr_right fun _ => and_congr_right fun st => ?_
  rw [inv.ok_eq_false st]

/-- Every operation that the selector names completes (R207 "A run never ends on its own"): the reads of PROC_ERROR, PROC_DONE,
TX_WORD and TX_LAST find their words, and RateMatch answers as the selector says. -/
theorem State.Inv.exists_exec : ∃ u, exec s.operation s = .next u := by
  cases op : s.operation with
  | procError =>
    obtain ⟨-, -, -, k, raised⟩ := inv.operation_eq_procError.1 op
    exact ⟨_, execProcError_eq_next.2 ⟨k, raised, rfl⟩⟩
  | procDone =>
    obtain ⟨-, st, -, ok⟩ := State.operation_eq_procDone_iff_ok.1 op
    obtain ⟨f, returned⟩ := (State.ok_eq_true_of_processing st).1 ok
    exact ⟨_, execProcDone_eq_next.2 ⟨f, returned, rfl⟩⟩
  | txWord =>
    obtain ⟨-, st, -⟩ := State.operation_eq_txWord.1 op
    obtain ⟨w, offered⟩ := inv.exists_offered st
    exact ⟨_, execTxWord_eq_next.2 ⟨w, offered, rfl⟩⟩
  | txLast =>
    obtain ⟨-, st, -⟩ := State.operation_eq_txLast.1 op
    obtain ⟨w, offered⟩ := inv.exists_offered st
    exact ⟨_, execTxLast_eq_next.2 ⟨w, offered, rfl⟩⟩
  | reset | idleAdvance | cfgHold | cfgAccept | rxHold | rxAccept | rxAcceptFill | procWait | txHold | badState101
  | badState11x => exact ⟨_, rfl⟩

theorem State.Inv.exists_step : ∃ t, step s = .next t := by
  obtain ⟨u, run⟩ := inv.exists_exec
  exact ⟨u.endTick, step_eq_next.2 ⟨u, run, rfl⟩⟩

end

/-! ### The edges of the state cycle (R207) -/

section
variable {s u : State} (tick : StepCase s u)
include tick

theorem StepCase.state_of_rst (rst : s.pins.rst = true) : u.state = codeIdle := by
  cases tick with
  | reset => rfl
  | idleAdvance noRst | cfgHold noRst | cfgAccept noRst | rxHold noRst | rxAccept noRst | rxAcceptFill noRst | procWait noRst
  | procError noRst | procDone noRst | txHold noRst | txWord noRst | txLast noRst | badState101 noRst | badState11x noRst =>
    simp [rst] at noRst

/-- From a legal code, each operation but RESET goes along an edge of the cycle or holds. -/
theorem StepCase.cycleEdge_state (noRst : s.pins.rst = false) (legal : s.legal) : cycleEdge s.state u.state := by
  cases tick with
  | reset rst => simp [noRst] at rst
  | procDone _ st =>
    rw [State.storeResult_state]
    split_ifs <;> simp [cycleEdge, st]
  | badState101 _ st => simp [State.legal, st] at legal
  | badState11x _ st => rcases st with st | st <;> simp [State.legal, st] at legal
  | idleAdvance _ st | cfgHold _ st | cfgAccept _ st | rxHold _ st | rxAccept _ st | rxAcceptFill _ st | procWait _ st
  | procError _ st | txHold _ st | txWord _ st | txLast _ st => simp [cycleEdge, st]

/-- The two edges from `PROCESSING` to `IDLE` (R207). -/
theorem StepCase.processing_to_idle (noRst : s.pins.rst = false) (processing : s.state = codeProcessing)
    (idle : u.state = codeIdle) :
    s.operation = .procError ∨ (s.operation = .procDone ∧ s.passResult = some (.sequence [])) := by
  cases tick with
  | reset rst => simp [noRst] at rst
  | procWait => simp [processing] at idle
  | procError _ _ _ _ _ op => exact .inl op
  | procDone _ _ _ f returned op =>
    obtain rfl := State.storeResult_state_eq_idle.1 idle
    exact .inr ⟨op, returned⟩
  | badState11x _ st => rcases st with st | st <;> simp [st] at processing
  | idleAdvance _ st | cfgHold _ st | cfgAccept _ st | rxHold _ st | rxAccept _ st | rxAcceptFill _ st | txHold _ st
  | txWord _ st | txLast _ st | badState101 _ st => simp [st] at processing

end

/-! ### The obligations -/

/-- Settles O27: `IDLE` belongs to no port, and its row of the operation map examines no other bit. -/
theorem idleAdvanceGoesToAwaitCfg : Obligations.IdleAdvanceGoesToAwaitCfg := by
  refine fun s => ⟨State.operation_eq_idleAdvance, exec_idleAdvance s, fun op => ?_⟩
  obtain ⟨-, st⟩ := State.operation_eq_idleAdvance.1 op
  exact State.handshakeOutputs_eq_zero (.inl st)

/-- Settles O34: in `PROCESSING` the invariant keeps `proc_cnt` below `PROC_TICKS`, so a tick that is not the last is one before
it. -/
theorem procWaitCountsOneTick : Obligations.ProcWaitCountsOneTick := by
  refine fun s => ⟨exec_procWait s, fun inv => ?_, fun op => ?_⟩
  · have notLast : s.operation = .procWait ↔
        s.pins.rst = false ∧ s.state = codeProcessing ∧ s.procCnt < s.params.procTicks - 1 := by
      rw [State.operation_eq_procWait]
      refine and_congr_right fun _ => and_congr_right fun st => ?_
      have below := inv.procCnt_lt st
      omega
    refine ⟨notLast, fun op => ?_⟩
    obtain ⟨-, -, before⟩ := notLast.1 op
    omega
  · obtain ⟨-, st, -⟩ := State.operation_eq_procWait.1 op
    exact State.handshakeOutputs_eq_zero (.inr st)

/-- Settles O35: the code is in `err` and the state is `IDLE` when the next tick begins, so `err_code` shows the code and no word is
offered, whatever that tick's inputs are. -/
theorem procErrorRecordsTheErrorAndDiscardsTheBatch : Obligations.ProcErrorRecordsTheErrorAndDiscardsTheBatch := by
  refine fun s => ⟨fun inv => ?selector, fun k raised => ?effect, fun op => ?outputs⟩
  case selector =>
    have ticks := inv.procTicks_pos
    have last : s.procCnt + 1 = s.params.procTicks ↔ s.procCnt = s.params.procTicks - 1 := by omega
    rw [inv.operation_eq_procError, last]
  case effect =>
    exact ⟨State.passResult_error_kind raised, execProcError_eq_next.2 ⟨k, raised, rfl⟩⟩
  case outputs =>
    obtain ⟨-, st, -⟩ := State.operation_eq_procError_iff_ok.1 op
    refine ⟨State.outValid_of_state_ne (st ▸ codeProcessing_ne_codeEmitting), fun t next => ?_⟩
    obtain ⟨u, run, rfl⟩ := step_eq_next.1 next
    rw [op] at run
    obtain ⟨k, raised, rfl⟩ := execProcError_eq_next.1 run
    exact ⟨State.outValid_of_state_ne codeIdle_ne_codeEmitting, rfl, k, raised, State.errCode_of_not_rst⟩

/-- Settles O14: the invariant makes every operation complete, and each of the fifteen ways it can is an edge, a hold or a
reset. -/
theorem statesFormOneCycle : Obligations.StatesFormOneCycle := by
  refine ⟨fun s inv => ?legal, fun s illegal => ?illegal⟩
  case legal =>
    obtain ⟨t, next⟩ := inv.exists_step
    obtain ⟨u, tick, rfl⟩ := step_cases next
    have ⟨_, legal, _⟩ := inv
    exact ⟨_, next, tick.state_of_rst, fun noRst => tick.cycleEdge_state noRst legal,
      tick.processing_to_idle⟩
  case illegal => exact ⟨_, step_eq_next.2 ⟨_, exec_operation_of_illegal illegal, rfl⟩, rfl⟩

end Sys2Proof.Machine

/-! PROOFS. Reset: when RESET is chosen, what it leaves in the registers, and the outputs of a reset tick
(spec/70_reset_and_hazards.md, R270). -/

namespace Sys2Proof.Machine

open Sys2Proof

/-! ### When RESET is chosen, and what it does to the state -/

/-- `rst` overrides the state code and every other bit of the selector (R80, R270). -/
theorem State.operation_eq_reset {s : State} : s.operation = .reset ↔ s.pins.rst = true := by
  rw [State.operation_eq]
  split_ifs <;> simp_all

theorem exec_reset (s : State) : exec .reset s = .next s.clearAll := rfl

/-- A cleared queue is not full: a well-formed build has room for at least one word (R12, R125). -/
theorem State.clearAll_isReady {s : State} (wf : s.params.wf) : s.clearAll.isReady = false := by
  obtain ⟨words, -, -⟩ := wf
  have notFull : 0 ≠ s.params.maxWords := by omega
  exact State.isReady_eq_false.2 notFull

/-! ### The outputs and the transfers of a reset tick -/

section
variable {s : State} (rst : s.pins.rst = true)
include rst

theorem State.cfgReady_of_rst : s.cfgReady = false := by simp [State.cfgReady, rst]

theorem State.inReady_of_rst : s.inReady = false := by simp [State.inReady, rst]

theorem State.outValid_of_rst : s.outValid = false := by simp [State.outValid, rst]

theorem State.errCode_of_rst : s.errCode = 0 := by rw [State.errCode, if_pos rst]

/-- The block's half of each handshake is 0, so nothing is transferred whatever the other side offers (R206, R270). -/
theorem State.xfers_of_rst : s.cfgXfer = false ∧ s.inXfer = false ∧ s.outXfer = false :=
  ⟨by rw [State.cfgXfer, State.cfgReady_of_rst rst, Bool.and_false],
    by rw [State.inXfer, State.inReady_of_rst rst, Bool.and_false],
    by rw [State.outXfer, State.outValid_of_rst rst, Bool.and_false]⟩

end

/-! ### The obligation -/

/-- Settles O8: the registers are those of `clearAll`, and `rst` gates every output. -/
theorem resetDiscardsEverything : Obligations.ResetDiscardsEverything := by
  refine fun s => ⟨State.operation_eq_reset, ⟨s.clearAll, exec_reset s, ?registers⟩, fun rst => ?outputs⟩
  case registers =>
    exact ⟨rfl, rfl, rfl, rfl, rfl, rfl, Memory.read_nil, Memory.read_nil, rfl, rfl, rfl, rfl, State.clearAll_isReady⟩
  case outputs =>
    have noOffer : s.outValid = false := State.outValid_of_rst rst
    exact ⟨State.cfgReady_of_rst rst, State.inReady_of_rst rst, noOffer, State.outLast_ne_true noOffer,
      State.errCode_of_rst rst, State.xfers_of_rst rst⟩

end Sys2Proof.Machine

/-! PROOFS. The ranges of the quantities that a configuration fixes, and what RateMatch returns past its checks
(spec/43_rate_matcher.md, R148, R155, R158 and R159). -/

namespace Sys2Proof.Machine

open Sys2Proof

/-! ### The ranges of the derived quantities (R148, R158) -/

/-- Every form of the output length is a multiple of `NQ` (R147). -/
theorem dvd_outputLength (mode : EMode) (outlen nq : Nat) : nq ∣ outputLength mode outlen nq := by
  cases mode with
  | floor => exact Nat.dvd_mul_right nq _
  | literal | modEquiv =>
    dsimp only [outputLength]
    split <;> exact Nat.dvd_mul_right nq _

theorem outputLength_lt {outlen nq : Nat} (pos : 0 < nq) (mode : EMode) : outputLength mode outlen nq < outlen + nq := by
  obtain ⟨-, -, ceiling⟩ := (mul_ceilDiv_eq_iff (x := outlen) pos).1 rfl
  cases mode with
  | floor =>
    have : nq * (outlen / nq) ≤ outlen := Nat.mul_div_le outlen nq
    rw [outputLength_floor]
    omega
  | literal =>
    rw [outputLength_literal pos]
    split <;> omega
  | modEquiv => rwa [outputLength_modEquiv pos]

/-- The products of a 3-bit and a 4-bit number leave a gap below the two greatest, 98 and 105. -/
theorem nq_range (nlayers : BitVec 3) (qm : BitVec 4) :
    nlayers.toNat * qm.toNat ≤ 91 ∨ nlayers.toNat * qm.toNat = 98 ∨ nlayers.toNat * qm.toNat = 105 := by
  have products : ∀ n < 8, ∀ q < 16, n * q ≤ 91 ∨ n * q = 98 ∨ n * q = 105 := by decide
  exact products _ nlayers.isLt _ qm.isLt

/-- The greatest output length of a mode, `E_MAX` (R17). -/
def maxOutputLength (mode : EMode) : Nat := if mode = .floor then 65535 else 65625

/-- A multiple of `NQ` less than `NQ` above a 16-bit number is at most 65625, the greatest multiple of 105 that can be. -/
theorem outputLength_le (mode : EMode) (c : RateMatchConfig) (someBits : c.nlayers.toNat * c.qm.toNat ≠ 0) :
    outputLength mode c.outlen.toNat (c.nlayers.toNat * c.qm.toNat) ≤ maxOutputLength mode := by
  have range := nq_range c.nlayers c.qm
  have outlen : c.outlen.toNat < 65536 := c.outlen.isLt
  generalize c.nlayers.toNat * c.qm.toNat = nq at someBits range ⊢
  by_cases floor : mode = .floor
  · have : nq * (c.outlen.toNat / nq) ≤ c.outlen.toNat := Nat.mul_div_le _ nq
    rw [maxOutputLength, if_pos floor, floor, outputLength_floor]
    omega
  · rw [maxOutputLength, if_neg floor]
    have below := outputLength_lt (outlen := c.outlen.toNat) (Nat.pos_of_ne_zero someBits) mode
    obtain ⟨q, multiple⟩ := dvd_outputLength mode c.outlen.toNat nq
    rcases range with small | rfl | rfl <;> omega

theorem softBufferSize_pos {inlen : Nat} (pos : 0 < inlen) (nref : Nat) : 0 < softBufferSize inlen nref := by
  unfold softBufferSize
  split <;> omega

theorem liftingSize_le_div (inlen : Nat) : liftingSize inlen ≤ inlen / 50 := by
  have columns : 50 ≤ columnCount (baseGraph inlen) := by cases baseGraph inlen <;> decide
  exact Nat.div_le_div_left columns (by decide)

/-- The buffer is no longer than `inlen`, so the quotient of the starting offset is at most the numerator (R145). -/
theorem startOffset_le (inlen nref : Nat) (rv : BitVec 2) :
    startOffset inlen nref rv ≤ offsetNumerator (baseGraph inlen) rv * liftingSize inlen :=
  Nat.mul_le_mul_right _ (Nat.div_le_of_le_mul (by
    rw [Nat.mul_comm]
    exact Nat.mul_le_mul_right _ (softBufferSize_le inlen nref)))

theorem offsetNumerator_le (bgn : BaseGraph) (rv : BitVec 2) :
    offsetNumerator bgn rv ≤ if bgn = .bg1 then 56 else 43 := by
  cases bgn <;> revert rv <;> decide

/-- The greatest starting offset: 43 times 1310 on base graph 2; 56 times 992 on base graph 1 is below it. -/
theorem startOffset_le_of_inlen {inlen : Nat} (width : inlen < 65536) (nref : Nat) (rv : BitVec 2) :
    startOffset inlen nref rv ≤ 56330 := by
  have offset := startOffset_le inlen nref rv
  have numerator := offsetNumerator_le (baseGraph inlen) rv
  cases graph : baseGraph inlen with
  | bg1 =>
    have lifting : liftingSize inlen ≤ 992 := by rw [liftingSize, graph, columnCount]; omega
    rw [graph] at offset numerator
    calc startOffset inlen nref rv
      _ ≤ offsetNumerator .bg1 rv * liftingSize inlen := offset
      _ ≤ 56 * 992 := Nat.mul_le_mul numerator lifting
      _ ≤ 56330 := by decide
  | bg2 =>
    have lifting : liftingSize inlen ≤ 1310 := by rw [liftingSize, graph, columnCount]; omega
    rw [graph] at offset numerator
    calc startOffset inlen nref rv
      _ ≤ offsetNumerator .bg2 rv * liftingSize inlen := offset
      _ ≤ 43 * 1310 := Nat.mul_le_mul numerator lifting
      _ ≤ 56330 := by decide

/-! ### RateMatch past its checks (R155, R159) -/

/-- The selection that RateMatch makes (steps 2, 4, 5 and 6). -/
def selected (mode : EMode) (b : List TriBit) (c : RateMatchConfig) : Option (List Bool) :=
  select (b.take c.inlen.toNat) (softBufferSize c.inlen.toNat c.nref.toNat)
    (startOffset c.inlen.toNat c.nref.toNat c.rv) (outputLength mode c.outlen.toNat (c.nlayers.toNat * c.qm.toNat))

/-- `E` is a multiple of `Qm`: check 5 never fires (R148). -/
theorem outputLength_mod_qm (mode : EMode) (c : RateMatchConfig) :
    outputLength mode c.outlen.toNat (c.nlayers.toNat * c.qm.toNat) % c.qm.toNat = 0 :=
  Nat.mod_eq_zero_of_dvd (Nat.dvd_trans (Nat.dvd_mul_left _ _) (dvd_outputLength mode _ _))

theorem inlen_eq_zero {c : RateMatchConfig} : c.inlen = 0 ↔ c.inlen.toNat = 0 := BitVec.toNat_inj.symm

/-- The circular buffer lies within the truncated sequence. -/
theorem softBufferSize_le_input {b : List TriBit} {c : RateMatchConfig} (long : c.inlen.toNat ≤ b.length) :
    softBufferSize c.inlen.toNat c.nref.toNat ≤ (b.take c.inlen.toNat).length := by
  rw [List.length_take_of_le long]
  exact softBufferSize_le _ _

section
variable {b : List TriBit} {c : RateMatchConfig} (mode : EMode)

theorem inlen_pos (hasInput : c.inlen ≠ 0) : 0 < c.inlen.toNat :=
  Nat.pos_of_ne_zero (mt inlen_eq_zero.2 hasInput)

theorem rateMatch_of_inlen_zero (noInput : c.inlen = 0) : rateMatch mode b c = .error .invalidParameter := by
  simp [rateMatch, noInput]

theorem rateMatch_of_short (hasInput : c.inlen ≠ 0) (short : b.length < c.inlen.toNat) :
    rateMatch mode b c = .error .insufficientData := by
  simp [rateMatch, (inlen_pos hasInput).ne', short]

theorem rateMatch_of_nq_zero (hasInput : c.inlen ≠ 0) (long : c.inlen.toNat ≤ b.length)
    (noBits : c.nlayers.toNat * c.qm.toNat = 0) : rateMatch mode b c = .error .invalidParameter := by
  unfold rateMatch
  simp only [if_neg (inlen_pos hasInput).ne', if_neg (Nat.not_lt.2 long),
    if_neg (softBufferSize_pos (inlen_pos hasInput) c.nref.toNat).ne', if_pos noBits]

section
variable (hasInput : c.inlen ≠ 0) (long : c.inlen.toNat ≤ b.length)
include hasInput long

theorem selected_length {bits : List Bool} (found : selected mode b c = some bits) :
    bits.length = outputLength mode c.outlen.toNat (c.nlayers.toNat * c.qm.toNat) :=
  ((selectionCollectsTheBitsInOrder _ _ _ _ _ (softBufferSize_pos (inlen_pos hasInput) _)
    (softBufferSize_le_input long)).1 found).1

/-- Past the checks RateMatch gives the interleaved selection, or no result where selection has none. -/
theorem rateMatch_of_checks (someBits : c.nlayers.toNat * c.qm.toNat ≠ 0) :
    rateMatch mode b c =
      (selected mode b c).elim .stuck fun bits => .sequence (readByRows (bits.length / c.qm.toNat) c.qm.toNat bits) := by
  have checks : rateMatch mode b c =
      match selected mode b c with
      | none => .stuck
      | some bits =>
        match interleave bits c.qm.toNat with
        | .error k => .error k
        | .ok f    => .sequence f := by
    unfold rateMatch
    simp only [if_neg (inlen_pos hasInput).ne', if_neg (Nat.not_lt.2 long),
      if_neg (softBufferSize_pos (inlen_pos hasInput) c.nref.toNat).ne', if_neg someBits,
      if_neg (not_not_intro (outputLength_mod_qm mode c))]
    rfl
  rw [checks]
  cases found : selected mode b c with
  | none => rfl
  | some bits =>
    have multiple : bits.length % c.qm.toNat = 0 := by
      rw [selected_length mode hasInput long found, outputLength_mod_qm]
    simp only [interleave_of_multiple multiple, Option.elim_some]

theorem rateMatch_ne_error (someBits : c.nlayers.toNat * c.qm.toNat ≠ 0) (k : ErrorKind) :
    rateMatch mode b c ≠ .error k := by
  rw [rateMatch_of_checks mode hasInput long someBits]
  cases selected mode b c <;> exact nofun

end

/-- A sequence that RateMatch returns is interleaved from `E` selected bits, and the checks have passed. -/
theorem exists_selected_of_sequence {f : List Bool} (returned : rateMatch mode b c = .sequence f) :
    c.inlen ≠ 0 ∧ c.inlen.toNat ≤ b.length ∧ c.nlayers.toNat * c.qm.toNat ≠ 0 ∧
      ∃ bits, selected mode b c = some bits ∧ f = readByRows (bits.length / c.qm.toNat) c.qm.toNat bits := by
  have hasInput : c.inlen ≠ 0 := fun zero => by simp [rateMatch_of_inlen_zero mode zero] at returned
  have long : c.inlen.toNat ≤ b.length := Nat.not_lt.1 fun short => by
    simp [rateMatch_of_short mode hasInput short] at returned
  have someBits : c.nlayers.toNat * c.qm.toNat ≠ 0 := fun zero => by
    simp [rateMatch_of_nq_zero mode hasInput long zero] at returned
  refine ⟨hasInput, long, someBits, ?_⟩
  rw [rateMatch_of_checks mode hasInput long someBits] at returned
  cases found : selected mode b c with
  | none => simp [found] at returned
  | some bits => exact ⟨bits, rfl, by simpa [found] using returned.symm⟩

/-- The interleaver keeps the length, so a returned sequence has length `E` (R153, R155). -/
theorem length_of_sequence {f : List Bool} (returned : rateMatch mode b c = .sequence f) :
    f.length = outputLength mode c.outlen.toNat (c.nlayers.toNat * c.qm.toNat) ∧
      f.length ≤ maxOutputLength mode := by
  obtain ⟨hasInput, long, someBits, bits, found, rfl⟩ := exists_selected_of_sequence mode returned
  have bitsLength := selected_length mode hasInput long found
  have multiple : bits.length % c.qm.toNat = 0 := by rw [bitsLength, outputLength_mod_qm]
  have area := length_eq_of_multiple multiple
  have kept : (readByRows (bits.length / c.qm.toNat) c.qm.toNat bits).length = bits.length := (readByRows_perm area).length_eq
  rw [kept, bitsLength]
  exact ⟨rfl, outputLength_le mode c someBits⟩

end

/-! ### Selection where no filler is read -/

section
variable {input : List TriBit} {ncb k0 : Nat} (pos : 0 < ncb) (fits : ncb ≤ input.length)
  (noFiller : ∀ p < ncb, input[p]? ≠ some .filler)
include pos fits noFiller

theorem walkBit_isSome (j : Nat) : (walkBit input ncb k0 j).isSome := by
  rw [Option.isSome_iff_ne_none]
  exact fun none => noFiller _ (Nat.mod_lt _ pos) ((no_bit_iff_filler (walk_position_lt pos fits j)).1 none)

/-- Without fillers, the walk takes the first `E` positions from `k0` on (R150). -/
theorem exists_select_of_no_filler (e : Nat) :
    ∃ bits, select input ncb k0 e = some bits ∧ ∀ t < e, bits[t]? = walkBit input ncb k0 t := by
  have full (n : Nat) : ∀ j < n, (walkBit input ncb k0 j).isSome := fun j _ => walkBit_isSome pos fits noFiller j
  refine ⟨(List.range e).filterMap (walkBit input ncb k0), ?_, fun t ht => filterMap_range_getElem? (full e) ht⟩
  exact (selectionCollectsTheBitsInOrder input ncb k0 e _ pos fits).2 ⟨filterMap_range_length (full e), e, rfl⟩

end

/-! ### The outcome of a pass (R206, R242, R243) -/

/-- In `PROCESSING` the drain returns the bits of `MAX_WORDS` words. -/
theorem State.Inv.passResult_eq {s : State} (inv : s.Inv) (st : s.state = codeProcessing) :
    ∃ b, s.passResult = some (rateMatch s.params.eMode b s.cfg) ∧ b.length = 128 * s.params.maxWords := by
  obtain ⟨-, -, ⟨-, -, -, processing, -⟩, ⟨queueKeys, -⟩, -⟩ := inv
  obtain ⟨full, -⟩ := processing st
  have words : (s.queue.map Prod.snd).length = s.count := by simpa using congrArg List.length queueKeys
  have drained := State.drainBits_of_queue (Memory.eq_ofWords_of_keys queueKeys) words.symm
  exact ⟨_, by rw [State.passResult, drained, Option.map_some], by rw [flatMap_wordBits_length, words, full]⟩

/-! ### The obligations -/

/-- Settles O46. -/
theorem derivedQuantitiesStayInRange : Obligations.DerivedQuantitiesStayInRange := by
  intro c mode hasInput someBits
  have inlen : c.inlen.toNat < 65536 := c.inlen.isLt
  refine ⟨dvd_outputLength mode _ _, outputLength_mod_qm mode c, softBufferSize_pos (inlen_pos hasInput) _,
    softBufferSize_le _ _, ?nq, outputLength_le mode c someBits, ?lifting, startOffset_le_of_inlen inlen _ _⟩
  case nq => rcases nq_range c.nlayers c.qm with h | h | h <;> omega
  case lifting => exact Nat.le_trans (liftingSize_le_div _) (by omega)

/-- Settles O51: past the three checks that can fire there is a sequence or no result. -/
theorem rateMatchChecksComeInOrder : Obligations.RateMatchChecksComeInOrder :=
  fun mode _ _ => ⟨rateMatch_of_inlen_zero mode, rateMatch_of_short mode, rateMatch_of_nq_zero mode,
    rateMatch_ne_error mode⟩

/-- Settles O52: place `i · Qm + j` of the output is fed by the walk's step `j · rows + i`. -/
theorem rateMatchOutputBitByBit : Obligations.RateMatchOutputBitByBit := by
  intro mode b c hasInput long someBits ncb k0 e rows noFiller
  have pos : 0 < ncb := softBufferSize_pos (inlen_pos hasInput) _
  have fits : ncb ≤ (b.take c.inlen.toNat).length := softBufferSize_le_input long
  have sameBits : ∀ p < ncb, (b.take c.inlen.toNat)[p]? = b[p]? := fun p hp =>
    List.getElem?_take_of_lt (Nat.lt_of_lt_of_le hp (softBufferSize_le _ _))
  obtain ⟨bits, found, read⟩ := exists_select_of_no_filler (k0 := k0) pos fits
    (fun p hp => sameBits p hp ▸ noFiller p hp) e
  have returned := rateMatch_of_checks mode hasInput long someBits
  rw [show selected mode b c = some bits from found, Option.elim_some] at returned
  refine ⟨_, returned, (length_of_sequence mode returned).1, fun i j hi hj => ?_⟩
  have bitsLength : bits.length = e := selected_length mode hasInput long found
  have area : bits.length = c.qm.toNat * (bits.length / c.qm.toNat) :=
    length_eq_of_multiple (by rw [bitsLength]; exact outputLength_mod_qm mode c)
  have hi : i < bits.length / c.qm.toNat := bitsLength.symm ▸ hi
  have step : j * (bits.length / c.qm.toNat) + i < e := by
    rw [← bitsLength]
    exact Nat.lt_of_lt_of_eq (grid_position_lt hj hi) area.symm
  rw [readByRows_getElem? area hi hj, read _ step, walkBit, sameBits _ (Nat.mod_lt _ pos), bitsLength, Nat.add_assoc]

/-- Settles O54: the drained sequence has 128 bits for each of the `MAX_WORDS` words, and the checks decide from its length and
the configuration. -/
theorem passErrorIsDeterminedByTheConfiguration : Obligations.PassErrorIsDeterminedByTheConfiguration := by
  intro s inv st
  obtain ⟨b, evaluated, length⟩ := inv.passResult_eq st
  have outcome := inv.passResult_error_or_sequence
  by_cases hasInput : s.cfg.inlen = 0
  · rw [evaluated, rateMatch_of_inlen_zero _ hasInput]
    simp [hasInput]
  · have pos := inlen_pos hasInput
    rw [inlen_eq_zero]
    by_cases short : b.length < s.cfg.inlen.toNat
    · rw [evaluated, rateMatch_of_short _ hasInput short]
      simp only [Option.some.injEq, RateMatchResult.error.injEq, reduceCtorEq, exists_false, false_iff, true_iff]
      omega
    · have long := Nat.not_lt.1 short
      by_cases noBits : s.cfg.nlayers.toNat * s.cfg.qm.toNat = 0
      · rw [evaluated, rateMatch_of_nq_zero _ hasInput long noBits]
        simp only [Option.some.injEq, RateMatchResult.error.injEq, reduceCtorEq, exists_false, false_iff, true_iff]
        omega
      · have noError := rateMatch_ne_error s.params.eMode hasInput long noBits
        rw [evaluated] at outcome ⊢
        simp only [Option.some.injEq, noError, exists_false, false_or] at outcome ⊢
        simp only [outcome, false_iff, true_iff]
        omega

end Sys2Proof.Machine

/-! PROOFS. The two decoders: decoding and encoding agree, for the tick selector and for the configuration word
(spec/30_encoding.md section 4, spec/41_config_codec.md section 1). -/

namespace Sys2Proof.Machine

open Sys2Proof

/-! ### The tick selector -/

theorem decode_toNat (S : BitVec 9) : decode S.toNat = .ok (decodeSelector S) := by
  rw [decode, if_pos S.isLt, BitVec.ofNat_toNat, BitVec.setWidth_eq]

/-- The decoder answers `i` exactly on the selectors of its row (R81). -/
theorem decodeSelector_eq_iff {i : Instr} {S : BitVec 9} : decodeSelector S = i ↔ rowMatches i S := by
  cases i with
  | reset => exact Laws.RowDecodes.reset S
  | idleAdvance => exact Laws.RowDecodes.idleAdvance S
  | cfgHold => exact Laws.RowDecodes.cfgHold S
  | cfgAccept => exact Laws.RowDecodes.cfgAccept S
  | rxHold => exact Laws.RowDecodes.rxHold S
  | rxAccept => exact Laws.RowDecodes.rxAccept S
  | rxAcceptFill => exact Laws.RowDecodes.rxAcceptFill S
  | procWait => exact Laws.RowDecodes.procWait S
  | procError => exact Laws.RowDecodes.procError S
  | procDone => exact Laws.RowDecodes.procDone S
  | txHold => exact Laws.RowDecodes.txHold S
  | txWord => exact Laws.RowDecodes.txWord S
  | txLast => exact Laws.RowDecodes.txLast S
  | badState101 => exact Laws.RowDecodes.badState101 S
  | badState11x => exact Laws.RowDecodes.badState11x S

/-- A row's word has no bit outside the bits that the row examines. -/
theorem encode_and_rowMask (i : Instr) : encode i &&& rowMask i = encode i := by cases i <;> rfl

/-- The unexamined bits do not change the row that a word matches. -/
theorem rowMatches_encodeWith (i : Instr) (free : BitVec 9) : rowMatches i (encodeWith i free) :=
  calc encodeWith i free &&& rowMask i
    _ = encode i &&& rowMask i ||| free &&& (~~~ rowMask i &&& rowMask i) := by
      rw [encodeWith, BitVec.and_or_distrib_right, BitVec.and_assoc]
    _ = encode i := by
      rw [BitVec.and_comm (~~~ rowMask i), BitVec.and_not_self, encode_and_rowMask]
      simp

/-- A selector that matches a row is the row's word with the selector's own unexamined bits. -/
theorem encodeWith_of_rowMatches {i : Instr} {S : BitVec 9} (row : rowMatches i S) : encodeWith i S = S := by
  rw [encodeWith, ← row, ← BitVec.and_or_distrib_left, BitVec.or_not_self, BitVec.and_allOnes]

/-! ### The configuration word -/

/-- The fields fit below one another in 47 bits, so their sum is the number of the encoded word (R103). -/
theorem encodeConfig_toNat (c : RateMatchConfig) :
    (encodeConfig c).toNat =
      c.inlen.toNat + c.outlen.toNat * 2 ^ 16 + c.rv.toNat * 2 ^ 32 + c.nlayers.toNat * 2 ^ 34 + c.qm.toNat * 2 ^ 37
        + c.nref.toNat * 2 ^ 41 := by
  rw [encodeConfig, BitVec.toNat_ofNat]
  refine Nat.mod_eq_of_lt ?_
  have := c.inlen.isLt
  have := c.outlen.isLt
  have := c.rv.isLt
  have := c.nlayers.isLt
  have := c.qm.isLt
  have := c.nref.isLt
  omega

/-- A configuration is determined by its six unsigned numbers. -/
theorem RateMatchConfig.eq_of_toNat_eq {c d : RateMatchConfig} (inlen : c.inlen.toNat = d.inlen.toNat)
    (outlen : c.outlen.toNat = d.outlen.toNat) (rv : c.rv.toNat = d.rv.toNat) (nlayers : c.nlayers.toNat = d.nlayers.toNat)
    (qm : c.qm.toNat = d.qm.toNat) (nref : c.nref.toNat = d.nref.toNat) : c = d := by
  cases c
  cases d
  simp only [RateMatchConfig.mk.injEq, ← BitVec.toNat_inj]
  exact ⟨inlen, outlen, rv, nlayers, qm, nref⟩

/-- Each field is a digit of the sum, at the place where it was put. -/
theorem decodeConfig_encodeConfig (c : RateMatchConfig) : decodeConfig (encodeConfig c) = c := by
  obtain ⟨inlen, outlen, rv, nlayers, qm, nref⟩ := configDecodeExtractsSixFields (encodeConfig c)
  rw [encodeConfig_toNat] at inlen outlen rv nlayers qm nref
  have := c.inlen.isLt
  have := c.outlen.isLt
  have := c.rv.isLt
  have := c.nlayers.isLt
  have := c.qm.isLt
  have := c.nref.isLt
  apply RateMatchConfig.eq_of_toNat_eq <;> omega

theorem encodeConfig_decodeConfig (cw : CfgWord) : encodeConfig (decodeConfig cw) = cw := by
  obtain ⟨inlen, outlen, rv, nlayers, qm, nref⟩ := configDecodeExtractsSixFields cw
  refine BitVec.eq_of_toNat_eq ?_
  have := cw.isLt
  rw [encodeConfig_toNat, inlen, outlen, rv, nlayers, qm, nref]
  omega

/-! ### The obligations -/

/-- Settles O3: every selector matches the row of the operation decoded from it, and no other; and the six fields are the digits
of the configuration word. -/
theorem encodersAndDecodersAgree : Obligations.EncodersAndDecodersAgree := by
  refine ⟨fun i free => ?_, fun S => encodeWith_of_rowMatches (decodeSelector_eq_iff.1 rfl), decodeConfig_encodeConfig,
    encodeConfig_decodeConfig⟩
  rw [decode_toNat, decodeSelector_eq_iff.2 (rowMatches_encodeWith i free)]

/-- Settles O5: numbers that fit their widths are the numbers of the fields. -/
theorem configEncodeSumsFieldsAndRefusesMisfits : Obligations.ConfigEncodeSumsFieldsAndRefusesMisfits := by
  refine fun c => ⟨fun wf => ?_, fun misfit => by rw [encodeRaw, RawConfig.fit, if_neg misfit, Option.map_none]⟩
  refine ⟨_, by rw [encodeRaw, RawConfig.fit, if_pos wf, Option.map_some], ?_⟩
  obtain ⟨inlen, outlen, rv, nlayers, qm, nref⟩ := wf
  rw [encodeConfig_toNat, decodeConfig_encodeConfig]
  simp only [BitVec.toNat_ofNat]
  omega

/-- Settles O2. -/
theorem selectorWordsOfTheVectorsDecode : Obligations.SelectorWordsOfTheVectorsDecode := by
  unfold Obligations.SelectorWordsOfTheVectorsDecode
  decide

/-- Settles O1: the operation that `step` executes is the one that the selector decodes to. -/
theorem stepRunsTheDecodedOperation : Obligations.StepRunsTheDecodedOperation := by
  intro s i decoded
  rw [decode_toNat] at decoded
  obtain rfl : s.operation = i := Except.ok.inj decoded
  refine ⟨fun t run => ?_, fun r run => ?_, fun r run => ?_⟩ <;> rw [step, run] <;> rfl

end Sys2Proof.Machine

/-! PROOFS. The invariant: every tick keeps it, every tick from it completes, one reset tick establishes it, and nothing of one
pass reaches the next (spec/10_state.md section 5, spec/20_memory.md section 5, spec/70_reset_and_hazards.md). -/

namespace Sys2Proof.Machine

open Sys2Proof

/-! ### The invariant, state by state (R36) -/

section
variable {s : State}

theorem State.inv_iff_of_idle (st : s.state = codeIdle) :
    s.Inv ↔ s.params.wf ∧ (s.count = 0 ∧ s.procCnt = 0 ∧ s.nwords = 0 ∧ s.idx = 0) ∧ s.stored ∧
      (s.err = 0 ∨ s.err = 2 ∨ s.err = 3) := by
  simp [State.Inv, State.legal, State.table, State.errOk, st]

theorem State.inv_iff_of_awaitCfg (st : s.state = codeAwaitCfg) :
    s.Inv ↔ s.params.wf ∧ (s.count = 0 ∧ s.procCnt = 0 ∧ s.nwords = 0 ∧ s.idx = 0) ∧ s.stored ∧
      (s.err = 0 ∨ s.err = 2 ∨ s.err = 3) := by
  simp [State.Inv, State.legal, State.table, State.errOk, st]

theorem State.inv_iff_of_receiving (st : s.state = codeReceiving) :
    s.Inv ↔ s.params.wf ∧ (s.count < s.params.maxWords ∧ s.procCnt = 0 ∧ s.nwords = 0 ∧ s.idx = 0) ∧ s.stored ∧
      s.err = 0 := by
  simp +contextual [State.Inv, State.legal, State.table, State.errOk, st]

theorem State.inv_iff_of_processing (st : s.state = codeProcessing) :
    s.Inv ↔ s.params.wf ∧
      (s.count = s.params.maxWords ∧ s.procCnt < s.params.procTicks ∧ s.nwords = 0 ∧ s.idx = 0) ∧ s.stored ∧
      s.err = 0 := by
  simp +contextual [State.Inv, State.legal, State.table, State.errOk, st]

theorem State.inv_iff_of_emitting (st : s.state = codeEmitting) :
    s.Inv ↔ s.params.wf ∧
      (s.count = 0 ∧ s.procCnt = 0 ∧ 1 ≤ s.nwords ∧ s.nwords ≤ s.params.resWords ∧ s.idx < s.nwords) ∧ s.stored ∧
      s.err = 0 := by
  simp +contextual [State.Inv, State.legal, State.table, State.errOk, st]

end

/-- The cleared registers satisfy the invariant in every well-formed build. -/
theorem State.clearAll_inv {s : State} (wf : s.params.wf) : s.clearAll.Inv :=
  (State.inv_iff_of_idle rfl).2 ⟨wf, ⟨rfl, rfl, rfl, rfl⟩, ⟨rfl, rfl⟩, .inl rfl⟩

/-- The invariant says nothing of the model's own fields `script` and `tick`. -/
theorem State.endTick_inv {s : State} : s.endTick.Inv ↔ s.Inv := Iff.rfl

/-! ### The stores stay filled exactly below their counters (R26, R29) -/

/-- A word written at the end of a filled store extends it by one. -/
theorem Memory.write_keys {m : Memory} {n : Nat} (keys : m.map Prod.fst = List.range n) (w : Word) :
    (Memory.write m n w).map Prod.fst = List.range (n + 1) := by
  have below : ∀ a ∈ m.map Prod.fst, a < n := by simp [keys]
  rw [Memory.write_append m n w below, List.map_append, keys, List.range_succ]
  rfl

theorem Memory.eq_nil_of_keys {m : Memory} {n : Nat} (keys : m.map Prod.fst = List.range n) (zero : n = 0) : m = [] := by
  rwa [zero, List.range_zero, List.map_eq_nil_iff] at keys

/-- `RES_WORDS` holds the words of every sequence that RateMatch can return (R17). -/
theorem chunkCount_le_resWords {p : Params} (wf : p.wf) {e : Nat} (le : e ≤ maxOutputLength p.eMode) :
    chunkCount e ≤ p.resWords := by
  obtain ⟨-, -, capacity⟩ := wf
  have bits : maxOutputLength p.eMode ≤ 128 * Params.minResWords p.eMode := by cases p.eMode <;> decide
  rw [chunkCount]
  omega

theorem State.length_le_of_passResult {s : State} {f : List Bool} (returned : s.passResult = some (.sequence f)) :
    f.length ≤ maxOutputLength s.params.eMode := by
  obtain ⟨b, -, matched⟩ := Option.map_eq_some_iff.1 returned
  exact (length_of_sequence _ matched).2

/-! ### Every tick keeps the invariant -/

/-- Each operation goes from the row of its state in the table of R36 to the row of the next. -/
theorem StepCase.inv {s u : State} (tick : StepCase s u) (inv : s.Inv) : u.Inv := by
  cases tick with
  | reset | badState101 | badState11x =>
    obtain ⟨wf, -⟩ := inv
    exact State.clearAll_inv wf
  | cfgHold | rxHold | txHold => exact inv
  | idleAdvance _ st => exact (State.inv_iff_of_awaitCfg rfl).2 ((State.inv_iff_of_idle st).1 inv)
  | cfgAccept _ st =>
    obtain ⟨wf, ⟨count, counters⟩, stored, -⟩ := (State.inv_iff_of_awaitCfg st).1 inv
    have ⟨words, _⟩ := wf
    have room : s.count < s.params.maxWords := by omega
    exact (State.inv_iff_of_receiving rfl).2 ⟨wf, ⟨room, counters⟩, stored, rfl⟩
  | rxAccept _ st _ notLast =>
    obtain ⟨wf, ⟨room, counters⟩, ⟨queue, result⟩, err⟩ := (State.inv_iff_of_receiving st).1 inv
    rw [State.offer_of_room _ room]
    have room : s.count + 1 < s.params.maxWords := by omega
    exact (State.inv_iff_of_receiving (by exact st)).2
      ⟨wf, ⟨room, counters⟩, ⟨Memory.write_keys queue _, result⟩, err⟩
  | rxAcceptFill _ st _ last =>
    obtain ⟨wf, ⟨-, -, counters⟩, ⟨queue, result⟩, err⟩ := (State.inv_iff_of_receiving st).1 inv
    have ticks : 0 < s.params.procTicks := inv.procTicks_pos
    have filled := last ▸ Memory.write_keys queue s.pins.inData
    exact (State.inv_iff_of_processing rfl).2 ⟨wf, ⟨rfl, ticks, counters⟩, ⟨filled, result⟩, err⟩
  | procWait _ st notLast =>
    obtain ⟨wf, ⟨count, below, counters⟩, stored, err⟩ := (State.inv_iff_of_processing st).1 inv
    have below : s.procCnt + 1 < s.params.procTicks := by omega
    exact (State.inv_iff_of_processing (by exact st)).2 ⟨wf, ⟨count, below, counters⟩, stored, err⟩
  | procError _ st _ k raised =>
    obtain ⟨wf, ⟨-, -, counters⟩, ⟨-, result⟩, -⟩ := (State.inv_iff_of_processing st).1 inv
    have code : ErrorKind.code k = 0 ∨ ErrorKind.code k = 2 ∨ ErrorKind.code k = 3 := by
      rcases State.passResult_error_kind raised with rfl | rfl <;> simp [ErrorKind.code]
    exact (State.inv_iff_of_idle rfl).2 ⟨wf, ⟨rfl, rfl, counters⟩, ⟨rfl, result⟩, code⟩
  | procDone _ st _ f returned =>
    obtain ⟨wf, -, -, err⟩ := (State.inv_iff_of_processing st).1 inv
    have stored : (s.storeResult f).stored := ⟨rfl, by
      rw [State.storeResult_result, Memory.ofWords_keys, chunk_length, State.storeResult_nwords]⟩
    have fits := chunkCount_le_resWords wf (State.length_le_of_passResult returned)
    by_cases noWord : chunkCount f.length = 0
    · have st : (s.storeResult f).state = codeIdle := if_pos noWord
      exact (State.inv_iff_of_idle st).2 ⟨wf, ⟨rfl, rfl, noWord, rfl⟩, stored, .inl err⟩
    · have st : (s.storeResult f).state = codeEmitting := if_neg noWord
      have words : 0 < chunkCount f.length := Nat.pos_of_ne_zero noWord
      exact (State.inv_iff_of_emitting st).2 ⟨wf, ⟨rfl, rfl, words, fits, words⟩, stored, err⟩
  | txWord _ st _ notLast =>
    obtain ⟨wf, ⟨count, procCnt, words, fits, below⟩, stored, err⟩ := (State.inv_iff_of_emitting st).1 inv
    have below : s.idx + 1 < s.nwords := by omega
    exact (State.inv_iff_of_emitting (by exact st)).2 ⟨wf, ⟨count, procCnt, words, fits, below⟩, stored, err⟩
  | txLast _ st =>
    obtain ⟨wf, ⟨count, procCnt, -⟩, ⟨queue, -⟩, err⟩ := (State.inv_iff_of_emitting st).1 inv
    exact (State.inv_iff_of_idle rfl).2 ⟨wf, ⟨count, procCnt, rfl, rfl⟩, ⟨queue, rfl⟩, .inl err⟩

theorem State.Inv.step {s t : State} (inv : s.Inv) (next : step s = .next t) : t.Inv := by
  obtain ⟨u, tick, rfl⟩ := step_cases next
  exact State.endTick_inv.2 (tick.inv inv)

/-! ### What a tick needs to complete (R52) -/

theorem Memory.words_eq_none {m : Memory} {n : Nat} :
    Memory.words m n = none ↔ ∃ i < n, Memory.read m i = none := by
  induction n with
  | zero => simp [Memory.words]
  | succ n ih =>
    rw [Nat.exists_lt_succ_right, ← ih]
    cases before : Memory.words m n <;> cases last : Memory.read m n <;> simp [Memory.words, before, last]

/-- The drain fails exactly on an entry below `count` that holds no value. -/
theorem State.passResult_eq_none {s : State} : s.passResult = none ↔ ∃ i < s.count, Memory.read s.queue i = none := by
  rw [State.passResult, State.drainBits, State.drainWords, Option.map_eq_none_iff, Option.map_eq_none_iff,
    Memory.words_eq_none]

/-- A tick completes in any state whose drain and whose offered word find their entries. -/
theorem State.exists_exec_of_readable {s : State} (queue : s.passResult ≠ none)
    (offered : Memory.read s.result s.idx ≠ none) : ∃ u, exec s.operation s = .next u := by
  cases op : s.operation with
  | procError =>
    obtain ⟨-, st, -, notOk⟩ := State.operation_eq_procError_iff_ok.1 op
    rcases s.passResult_cases with unread | raised | raised | returned
    · exact absurd unread queue
    · exact ⟨_, execProcError_eq_next.2 ⟨_, raised, rfl⟩⟩
    · exact ⟨_, execProcError_eq_next.2 ⟨_, raised, rfl⟩⟩
    · exact absurd ((State.ok_eq_true_of_processing st).2 returned) (by simp [notOk])
  | procDone =>
    obtain ⟨-, st, -, ok⟩ := State.operation_eq_procDone_iff_ok.1 op
    obtain ⟨f, returned⟩ := (State.ok_eq_true_of_processing st).1 ok
    exact ⟨_, execProcDone_eq_next.2 ⟨f, returned, rfl⟩⟩
  | txWord =>
    obtain ⟨w, read⟩ := Option.ne_none_iff_exists'.1 offered
    exact ⟨_, execTxWord_eq_next.2 ⟨w, read, rfl⟩⟩
  | txLast =>
    obtain ⟨w, read⟩ := Option.ne_none_iff_exists'.1 offered
    exact ⟨_, execTxLast_eq_next.2 ⟨w, read, rfl⟩⟩
  | reset | idleAdvance | cfgHold | cfgAccept | rxHold | rxAccept | rxAcceptFill | procWait | txHold | badState101
  | badState11x => exact ⟨_, rfl⟩

/-- At power-up both hold, whatever the unspecified registers are (log entry 18). -/
theorem exists_step_powerUp (p : Params) (script : List Pins) :
    ∃ t, step { State.powerUp p with script := script } = .next t := by
  have queue : State.passResult { State.powerUp p with script := script } ≠ none := by
    rw [Ne, State.passResult_eq_none]
    rintro ⟨i, hi, unread⟩
    simp [powerUp_read_queue p i (.inr hi)] at unread
  have offered : Memory.read (State.powerUp p).result (State.powerUp p).idx ≠ none := by
    simp [powerUp_read_result p _ (.inr rfl)]
  obtain ⟨u, run⟩ := State.exists_exec_of_readable queue offered
  exact ⟨_, step_eq_next.2 ⟨u, run, rfl⟩⟩

/-! ### What a tick of a known operation answers, and what it forgets -/

/-- A tick whose operation answers `u` ends in `u` with the tick counted. -/
theorem step_of_exec {s u : State} {i : Instr} (op : s.operation = i) (run : exec i s = .next u) :
    step s = .next u.endTick :=
  step_eq_next.2 ⟨u, by rw [op, run], rfl⟩

theorem step_of_rst {s : State} (rst : s.pins.rst = true) : step s = .next s.clearAll.endTick :=
  step_of_exec (State.operation_eq_reset.2 rst) (exec_reset s)

/-- The cleared state has nothing of the registers and stores before it (R270). -/
theorem State.clearAll_congr {s s' : State} (params : s.params = s'.params) (script : s.script = s'.script)
    (sent : s.sent = s'.sent) (tick : s.tick = s'.tick) : s.clearAll = s'.clearAll := by
  simp only [State.clearAll, params, script, sent, tick]

/-- The inputs of a tick are those of the script, or the free ones of the tick (R7). -/
theorem State.pins_congr {s s' : State} (script : s.script = s'.script) (tick : s.tick = s'.tick) : s.pins = s'.pins := by
  simp only [State.pins, script, tick]

theorem step_of_cfgAccept {s : State} (rst : s.pins.rst = false) (st : s.state = codeAwaitCfg)
    (valid : s.pins.cfgValid = true) :
    step s = .next
      { s with cfg := decodeConfig s.pins.cfgData, err := errNone, state := codeReceiving : State }.endTick :=
  step_of_exec (State.operation_eq_cfgAccept.2 ⟨rst, st, valid⟩) (exec_cfgAccept s)

/-! ### The obligations -/

/-- Settles O12. -/
theorem everyStepKeepsTheInvariant : Obligations.EveryStepKeepsTheInvariant := fun _ _ inv next => inv.step next

/-- Settles O13. -/
theorem invariantStatesAlwaysStep : Obligations.InvariantStatesAlwaysStep := fun _ inv => inv.exists_step

/-- Settles O11: the spec's default parameters are well-formed, and the registers are those of a cleared block. -/
theorem stateAfterResetSatisfiesInvariant : Obligations.StateAfterResetSatisfiesInvariant :=
  (State.inv_iff_of_idle rfl).2 ⟨by decide, ⟨rfl, rfl, rfl, rfl⟩, ⟨rfl, rfl⟩, .inl rfl⟩

/-- Settles O9. -/
theorem oneResetTickBootsAnyState : Obligations.OneResetTickBootsAnyState := by
  have boot (s : State) (wf : s.params.wf) (rst : s.pins.rst = true) :
      ∃ t, step s = .next t ∧ t.state = codeIdle ∧ t.Inv :=
    ⟨_, step_of_rst rst, rfl, State.endTick_inv.2 (State.clearAll_inv wf)⟩
  exact ⟨boot, fun p u wf rst => boot { State.powerUp p with script := [u] } wf rst,
    fun p u => exists_step_powerUp p [u]⟩

/-- Settles O10. -/
theorem resetForgetsThePassBeforeIt : Obligations.ResetForgetsThePassBeforeIt := by
  intro s s' params script sent tick rst
  have rst' : s'.pins.rst = true := State.pins_congr script tick ▸ rst
  rw [step_of_rst rst, step_of_rst rst', State.clearAll_congr params script sent tick]

/-- Settles O26: in `AWAIT_CFG` the invariant fixes every register but `cfg` and `err`, which CFG_ACCEPT writes. -/
theorem noStateOfOnePassReachesTheNext : Obligations.NoStateOfOnePassReachesTheNext := by
  intro s s' inv inv' st st' params script sent tick rst valid
  have pins : s.pins = s'.pins := State.pins_congr script tick
  rw [step_of_cfgAccept rst st valid, step_of_cfgAccept (pins ▸ rst) st' (pins ▸ valid), pins]
  obtain ⟨-, ⟨count, procCnt, nwords, idx⟩, ⟨queue, result⟩, -⟩ := (State.inv_iff_of_awaitCfg st).1 inv
  obtain ⟨-, ⟨count', procCnt', nwords', idx'⟩, ⟨queue', result'⟩, -⟩ := (State.inv_iff_of_awaitCfg st').1 inv'
  have queues : s.queue = s'.queue := by rw [Memory.eq_nil_of_keys queue count, Memory.eq_nil_of_keys queue' count']
  have results : s.result = s'.result := by
    rw [Memory.eq_nil_of_keys result nwords, Memory.eq_nil_of_keys result' nwords']
  simp only [params, script, sent, tick, queues, results, count, count', procCnt, procCnt', nwords, nwords', idx, idx']

end Sys2Proof.Machine

/-! PROOFS. Who writes what: the frames of the operations, the writers of `cfg` and of the two stores, and the words that the
consumer receives (spec/10_state.md section 2, spec/20_memory.md sections 1, 4 and 5). -/

namespace Sys2Proof.Machine

open Sys2Proof

/-! ### Transfers happen in the state of their port only (R206) -/

section
variable {s : State}

theorem State.cfgXfer_of_state_ne (st : s.state ≠ codeAwaitCfg) : s.cfgXfer = false := by
  rw [State.cfgXfer, State.cfgReady_of_state_ne st, Bool.and_false]

theorem State.inXfer_of_state_ne (st : s.state ≠ codeReceiving) : s.inXfer = false := by
  rw [State.inXfer, State.inReady_of_state_ne st, Bool.and_false]

theorem State.outXfer_of_state_ne (st : s.state ≠ codeEmitting) : s.outXfer = false := by
  rw [State.outXfer, State.outValid_of_state_ne st, Bool.and_false]

theorem State.outXfer_of_outReady (st : s.state = codeEmitting) (rst : s.pins.rst = false) :
    s.outXfer = s.pins.outReady := by
  rw [State.outXfer, State.outValid_of_emitting rst st, Bool.and_true]

end

/-! ### What `offer` leaves unchanged -/

section
variable (w : Word) (s : State)

@[simp] theorem State.offer_params : (s.offer w).params = s.params := by unfold State.offer; split <;> rfl
@[simp] theorem State.offer_cfg : (s.offer w).cfg = s.cfg := by unfold State.offer; split <;> rfl
@[simp] theorem State.offer_result : (s.offer w).result = s.result := by unfold State.offer; split <;> rfl
@[simp] theorem State.offer_sent : (s.offer w).sent = s.sent := by unfold State.offer; split <;> rfl
@[simp] theorem State.offer_script : (s.offer w).script = s.script := by unfold State.offer; split <;> rfl
@[simp] theorem State.offer_tick : (s.offer w).tick = s.tick := by unfold State.offer; split <;> rfl

theorem State.offer_of_full {w : Word} {s : State} (full : s.params.maxWords ≤ s.count) : s.offer w = s :=
  if_neg (Nat.not_lt.2 full)

end

/-! ### What a tick can do to `cfg`, to the stores and to the words sent -/

section
variable {s u : State} (tick : StepCase s u)
include tick

/-- `script` and `tick` change at the end of the tick only. -/
theorem StepCase.script_and_tick : u.script = s.script ∧ u.tick = s.tick := by
  cases tick with
  | rxAccept => exact ⟨State.offer_script _ _, State.offer_tick _ _⟩
  | reset | idleAdvance | cfgHold | cfgAccept | rxHold | rxAcceptFill | procWait | procError | procDone | txHold | txWord
  | txLast | badState101 | badState11x => exact ⟨rfl, rfl⟩

/-- `cfg` is left unspecified, written from the word transferred, or kept on a tick without a transfer (R23, R24). -/
theorem StepCase.cfg_cases :
    s.operation ∈ [Instr.reset, .badState101, .badState11x] ∨
    (s.operation = .cfgAccept ∧ u.cfg = decodeConfig s.pins.cfgData) ∨
    (s.cfgXfer = false ∧ u.cfg = s.cfg) := by
  cases tick with
  | reset _ op | badState101 _ _ op | badState11x _ _ op => exact .inl (by simp [op])
  | cfgAccept _ _ _ op => exact .inr (.inl ⟨op, rfl⟩)
  | cfgHold _ _ noWord => exact .inr (.inr ⟨by rw [State.cfgXfer, noWord, Bool.false_and], rfl⟩)
  | rxAccept _ st => exact .inr (.inr ⟨State.cfgXfer_of_state_ne (by simp [st]), State.offer_cfg _ _⟩)
  | idleAdvance _ st | rxHold _ st | rxAcceptFill _ st | procWait _ st | procError _ st | procDone _ st | txHold _ st
  | txWord _ st | txLast _ st => exact .inr (.inr ⟨State.cfgXfer_of_state_ne (by simp [st]), rfl⟩)

/-- The queue is written at `count`, emptied, or kept (R51, R123). -/
theorem StepCase.queue_cases (inv : s.Inv) :
    (s.operation ∈ [Instr.rxAccept, .rxAcceptFill] ∧ u.queue = Memory.write s.queue s.count s.pins.inData) ∨
    (s.operation ∈ [Instr.procError, .procDone, .reset] ∧ u.queue = []) ∨
    (s.operation ∉ [Instr.rxAccept, .rxAcceptFill, .procError, .procDone, .reset] ∧ u.queue = s.queue) := by
  cases tick with
  | rxAccept _ st _ _ op =>
    rw [State.offer_of_room _ (inv.room_of_receiving st)]
    exact .inl ⟨by simp [op], rfl⟩
  | rxAcceptFill _ _ _ _ op => exact .inl ⟨by simp [op], rfl⟩
  | reset _ op | procError _ _ _ _ _ op | procDone _ _ _ _ _ op => exact .inr (.inl ⟨by simp [op], rfl⟩)
  | badState101 _ st =>
    obtain ⟨-, legal, -⟩ := inv
    simp [State.legal, st] at legal
  | badState11x _ st =>
    obtain ⟨-, legal, -⟩ := inv
    rcases st with st | st <;> simp [State.legal, st] at legal
  | idleAdvance _ _ op | cfgHold _ _ _ op | cfgAccept _ _ _ op | rxHold _ _ _ op | procWait _ _ _ op | txHold _ _ _ op
  | txWord _ _ _ _ _ _ op | txLast _ _ _ _ _ _ op => exact .inr (.inr ⟨by simp [op], rfl⟩)

/-- The result store is written with the words of a sequence, emptied, or kept (R53). -/
theorem StepCase.result_cases :
    (s.operation = .procDone ∧ ∃ f, u.result = Memory.ofWords (chunk f) ∧ u.nwords = chunkCount f.length) ∨
    (s.operation ∈ [Instr.txLast, .reset, .badState101, .badState11x] ∧ u.result = []) ∨
    (s.operation ∉ [Instr.procDone, .txLast, .reset, .badState101, .badState11x] ∧ u.result = s.result) := by
  cases tick with
  | procDone _ _ _ f _ op => exact .inl ⟨op, f, rfl, rfl⟩
  | reset _ op | txLast _ _ _ _ _ _ op | badState101 _ _ op | badState11x _ _ op => exact .inr (.inl ⟨by simp [op], rfl⟩)
  | rxAccept _ _ _ _ op => exact .inr (.inr ⟨by simp [op], State.offer_result _ _⟩)
  | idleAdvance _ _ op | cfgHold _ _ _ op | cfgAccept _ _ _ op | rxHold _ _ _ op | rxAcceptFill _ _ _ _ op
  | procWait _ _ _ op | procError _ _ _ _ _ op | txHold _ _ _ op | txWord _ _ _ _ _ _ op =>
    exact .inr (.inr ⟨by simp [op], rfl⟩)

/-- The words sent grow by the word offered exactly on an output transfer (R59, R61). -/
theorem StepCase.sent_cases :
    (s.outXfer = true ∧ ∃ w, s.outData = .ok w ∧ u.sent = s.sent ++ [{ data := w, last := s.outLast }]) ∨
    (s.outXfer = false ∧ u.sent = s.sent) := by
  cases tick with
  | txWord rst st ready _ w read | txLast rst st ready _ w read =>
    exact .inl ⟨by rw [State.outXfer_of_outReady st rst, ready], w,
      State.outData_of_read (State.outValid_of_emitting rst st) read, rfl⟩
  | txHold rst st notReady => exact .inr ⟨by rw [State.outXfer_of_outReady st rst, notReady], rfl⟩
  | reset rst =>
    obtain ⟨-, -, noXfer⟩ := State.xfers_of_rst rst
    exact .inr ⟨noXfer, rfl⟩
  | badState11x _ st =>
    exact .inr ⟨State.outXfer_of_state_ne (by rcases st with st | st <;> simp [st]), rfl⟩
  | rxAccept _ st => exact .inr ⟨State.outXfer_of_state_ne (by simp [st]), State.offer_sent _ _⟩
  | idleAdvance _ st | cfgHold _ st | cfgAccept _ st | rxHold _ st | rxAcceptFill _ st | procWait _ st | procError _ st
  | procDone _ st | badState101 _ st => exact .inr ⟨State.outXfer_of_state_ne (by simp [st]), rfl⟩

end

/-! ### When BAD_STATE is chosen -/

theorem State.operation_eq_badState101 {s : State} :
    s.operation = .badState101 ↔ s.pins.rst = false ∧ s.state = 5#3 := by
  rw [State.operation_eq]
  split_ifs <;> simp_all

theorem State.operation_eq_badState11x {s : State} :
    s.operation = .badState11x ↔ s.pins.rst = false ∧ (s.state = 6#3 ∨ s.state = 7#3) := by
  have codes := state_codes s.state
  rw [State.operation_eq]
  split_ifs <;> simp_all

/-! ### The stimulus -/

theorem State.pins_of_script {s : State} {p : Pins} {rest : List Pins} (script : s.script = p :: rest) : s.pins = p := by
  rw [State.pins, script]

/-! ### The obligations -/

/-- Settles O17. -/
theorem configRegisterIsWrittenOnlyByCfgAccept : Obligations.ConfigRegisterIsWrittenOnlyByCfgAccept := by
  intro s t next
  obtain ⟨u, tick, rfl⟩ := step_cases next
  rcases tick.cfg_cases with op | ⟨op, written⟩ | kept
  · simp only [List.mem_cons, List.not_mem_nil, or_false] at op
    rcases op with op | op | op <;> simp [op]
  · exact .inr (.inr (.inr (.inl ⟨op, State.cfgXfer_of_cfgAccept op, written⟩)))
  · exact .inr (.inr (.inr (.inr kept)))

/-- Settles O19. -/
theorem queueIsWrittenOnlyAtCount : Obligations.QueueIsWrittenOnlyAtCount := by
  intro s t inv next
  obtain ⟨u, tick, rfl⟩ := step_cases next
  rw [State.endTick_queue]
  rcases tick.queue_cases inv with ⟨op, queue⟩ | ⟨op, queue⟩ | ⟨op, queue⟩ <;>
    rw [queue] <;>
    simp only [List.mem_cons, List.not_mem_nil, or_false, not_or] at op
  · exact ⟨fun _ => ⟨Memory.read_write_same _ _ _, fun a other => Memory.read_write_other _ _ a _ other⟩,
      fun emptied => by rcases op with op | op <;> simp [op] at emptied,
      fun n₁ n₂ => absurd op (by simp [n₁, n₂])⟩
  · exact ⟨fun written => by rcases op with op | op | op <;> simp [op] at written, fun _ => Memory.read_nil,
      fun _ _ n₁ n₂ n₃ => absurd op (by simp [n₁, n₂, n₃])⟩
  · exact ⟨fun written => by simp [op] at written, fun emptied => by simp [op] at emptied, fun _ _ _ _ _ _ => rfl⟩

/-- Settles O20. -/
theorem resultStoreIsWrittenOnlyByProcDone : Obligations.ResultStoreIsWrittenOnlyByProcDone := by
  intro s t next
  obtain ⟨u, tick, rfl⟩ := step_cases next
  rw [State.endTick_result, State.endTick_nwords]
  rcases tick.result_cases with ⟨op, f, result, nwords⟩ | ⟨op, result⟩ | ⟨op, result⟩ <;> rw [result]
  · refine ⟨fun _ a => ?_, fun emptied => by simp [op] at emptied, fun n => absurd op n⟩
    rw [Memory.read_ofWords, nwords, ← chunk_length]
    simp
  · simp only [List.mem_cons, List.not_mem_nil, or_false] at op
    exact ⟨fun written => by simp [written] at op, fun _ => Memory.read_nil,
      fun _ n₁ n₂ n₃ n₄ => absurd op (by simp [n₁, n₂, n₃, n₄])⟩
  · simp only [List.mem_cons, List.not_mem_nil, or_false, not_or] at op
    exact ⟨fun written => by simp [written] at op, fun emptied => by simp [op] at emptied, fun _ _ _ _ _ _ => rfl⟩

/-- Settles O22. -/
theorem consumerReceivesExactlyTheTransfers : Obligations.ConsumerReceivesExactlyTheTransfers := by
  intro s t next
  obtain ⟨u, tick, rfl⟩ := step_cases next
  obtain ⟨script, ticks⟩ := tick.script_and_tick
  refine and_assoc.1 ⟨?sent, by rw [State.endTick_script, script], by rw [State.endTick_tick, ticks]⟩
  rcases tick.sent_cases with ⟨xfer, sent⟩ | ⟨noXfer, kept⟩
  · exact ⟨fun _ => sent, fun noXfer => by simp [xfer] at noXfer⟩
  · exact ⟨fun xfer => by simp [noXfer] at xfer, fun _ => kept⟩

/-- Settles O16. -/
theorem noOperationChangesTheParameters : Obligations.NoOperationChangesTheParameters := by
  intro i s t run
  cases i with
  | procError =>
    obtain ⟨k, -, rfl⟩ := execProcError_eq_next.1 run
    rfl
  | procDone =>
    obtain ⟨f, -, rfl⟩ := execProcDone_eq_next.1 run
    rfl
  | txWord =>
    obtain ⟨w, -, rfl⟩ := execTxWord_eq_next.1 run
    rfl
  | txLast =>
    obtain ⟨w, -, rfl⟩ := execTxLast_eq_next.1 run
    rfl
  | rxAccept =>
    cases run
    exact State.offer_params _ _
  | reset | idleAdvance | cfgHold | cfgAccept | rxHold | rxAcceptFill | procWait | txHold | badState101 | badState11x =>
    cases run
    rfl

/-- Settles O21. -/
theorem operationsThatStoreNothingKeepEveryWord : Obligations.OperationsThatStoreNothingKeepEveryWord := by
  intro i s t stored run
  cases i with
  | txWord =>
    obtain ⟨w, -, rfl⟩ := execTxWord_eq_next.1 run
    exact ⟨fun _ => ⟨rfl, rfl⟩, rfl, rfl, fun other => absurd rfl other⟩
  | idleAdvance | cfgHold | cfgAccept | rxHold | procWait | txHold =>
    cases run
    exact ⟨fun _ => ⟨rfl, rfl⟩, rfl, rfl, fun _ => ⟨rfl, rfl⟩⟩
  | reset | rxAccept | rxAcceptFill | procError | procDone | txLast | badState101 | badState11x => simp at stored

/-- Settles O15: each port transfers in a state of its own. -/
theorem atMostOneTransferPerTick : Obligations.AtMostOneTransferPerTick := by
  intro s
  by_cases awaitCfg : s.state = codeAwaitCfg
  · rw [State.inXfer_of_state_ne (by simp [awaitCfg]), State.outXfer_of_state_ne (by simp [awaitCfg])]
    simp
  · rw [State.cfgXfer_of_state_ne awaitCfg]
    by_cases receiving : s.state = codeReceiving
    · rw [State.outXfer_of_state_ne (by simp [receiving])]
      simp
    · rw [State.inXfer_of_state_ne receiving]
      simp

/-- Settles O32. -/
theorem fullQueueTakesNoWord : Obligations.FullQueueTakesNoWord := by
  intro s full
  have notReady : s.inReady = false := by simp [State.inReady, full]
  exact ⟨notReady, by rw [State.inXfer, notReady, Bool.and_false], by rw [exec_rxAccept, State.offer_of_full full]⟩

/-- Settles O25: the tick is a TX_HOLD, and the offer is a function of what it keeps. -/
theorem offeredWordIsStableUntilTaken : Obligations.OfferedWordIsStableUntilTaken := by
  intro s st rst notReady
  have next : step s = .next s.endTick :=
    step_of_exec (State.operation_eq_txHold.2 ⟨rst, st, notReady⟩) (exec_txHold s)
  refine ⟨_, next, rfl, rfl, fun _ => rfl, fun rst' => ?_⟩
  have offered : s.outValid = true := State.outValid_of_emitting rst st
  have offered' : s.endTick.outValid = true := State.outValid_of_emitting rst' st
  refine ⟨offered', by rw [State.outData_of_outValid offered, State.outData_of_outValid offered']; rfl, ?_⟩
  rw [State.outLast, State.outLast, offered, offered']
  rfl

/-- Settles O41. -/
theorem badStateRecoversToIdle : Obligations.BadStateRecoversToIdle := by
  refine fun s => ⟨State.operation_eq_badState101, State.operation_eq_badState11x, fun i row => ⟨s.clearAll, ?_, ?_⟩,
    fun op => ?_⟩
  · rcases row with rfl | rfl <;> rfl
  · exact ⟨rfl, rfl, rfl, rfl, rfl, rfl, fun a => ⟨Memory.read_nil a, Memory.read_nil a⟩, rfl, rfl, rfl, rfl⟩
  · have illegal : s.state = 5#3 ∨ s.state = 6#3 ∨ s.state = 7#3 := by
      rcases op with op | op
      · exact .inl (State.operation_eq_badState101.1 op).2
      · exact .inr (State.operation_eq_badState11x.1 op).2
    have noOffer : s.outValid = false :=
      State.outValid_of_state_ne (by rcases illegal with st | st | st <;> simp [st])
    exact ⟨State.cfgReady_of_state_ne (by rcases illegal with st | st | st <;> simp [st]),
      State.inReady_of_state_ne (by rcases illegal with st | st | st <;> simp [st]), noOffer,
      State.outLast_ne_true noOffer⟩

/-- Settles O60: a producer whose list is not empty drives valid, so its word is transferred exactly when the block is ready. -/
theorem stimulusProducersHoldUntilTransfer : Obligations.StimulusProducersHoldUntilTransfer := by
  intro u t s script
  have pins : s.pins = stimulusPins u t := State.pins_of_script script
  refine ⟨fun d l cfgs => ?_, fun d l datas noHold => ?_, fun hold => ?_, fun empty => ?_, fun empty => ?_, ?_, ?_⟩
  · simp [stimulusNext, State.cfgXfer, pins, stimulusPins, cfgs]
  · simp [stimulusNext, State.inXfer, pins, stimulusPins, datas, noHold]
  · simp [stimulusNext, State.inXfer, pins, stimulusPins, hold]
  · simp [pins, stimulusPins, empty]
  · simp [pins, stimulusPins, empty]
  · simp [pins, stimulusPins]
  · simp [pins, stimulusPins]

end Sys2Proof.Machine

/-! PROOFS. The end of processing and the emission: PROC_DONE, where PROC_ERROR and PROC_DONE stop, TX_WORD and TX_LAST, and the
chunker as the inverse of the drain's concatenation (spec/45_stream_controller.md section 4, spec/44_output_chunker.md). -/

namespace Sys2Proof.Machine

open Sys2Proof

/-! ### The chunker undoes the concatenation of words (R56) -/

theorem TriBit.ofBool_inj {a b : Bool} : TriBit.ofBool a = TriBit.ofBool b ↔ a = b := by
  cases a <;> cases b <;> decide

/-- Words whose bits are the sequence `f` have bit `127 - t` of word `k` from place `128 k + t` of it. -/
theorem getElem?_of_assembled {ws : List Word} {f : List Bool} (bits : assembled ws = f.map TriBit.ofBool) {k t : Nat}
    {w : Word} (word : ws[k]? = some w) (ht : t < 128) : f[128 * k + t]? = some (w.getLsbD (127 - t)) := by
  have place := flatMap_wordBits_getElem? ws k t ht
  rw [← assembled, bits, List.getElem?_map, word, Option.map_some, Option.map_eq_some_iff] at place
  obtain ⟨b, read, same⟩ := place
  rw [read, TriBit.ofBool_inj.1 same]

theorem chunkCount_of_assembled {ws : List Word} {f : List Bool} (bits : assembled ws = f.map TriBit.ofBool) :
    chunkCount f.length = ws.length := by
  have length := congrArg List.length bits
  rw [assembled, flatMap_wordBits_length, List.length_map] at length
  rw [chunkCount]
  omega

theorem chunkWord_of_assembled {ws : List Word} {f : List Bool} (bits : assembled ws = f.map TriBit.ofBool) {k : Nat}
    {w : Word} (word : ws[k]? = some w) : chunkWord f k = w := by
  refine BitVec.eq_of_getLsbD_eq fun i hi => ?_
  have time : 127 - (127 - i) = i := by omega
  have inWord : 127 - i < 128 := by omega
  have bit := chunkWord_getLsbD f k (127 - i) inWord
  rwa [List.getD_eq_getElem?_getD, getElem?_of_assembled bits word inWord, Option.getD_some, time] at bit

/-! ### Where PROC_ERROR and PROC_DONE stop (R52, log entry 11) -/

section
variable {s : State}

theorem execProcError_of_unread (unread : s.passResult = none) : exec .procError s = .fault (.unwrittenRead .queue) := by
  simp [exec, execProcError, unread]

theorem execProcDone_of_unread (unread : s.passResult = none) : exec .procDone s = .fault (.unwrittenRead .queue) := by
  simp [exec, execProcDone, unread]

theorem execProcError_of_sequence {f : List Bool} (returned : s.passResult = some (.sequence f)) :
    exec .procError s = .fault .selectorMismatch := by
  simp [exec, execProcError, returned]

theorem execProcDone_of_error {k : ErrorKind} (raised : s.passResult = some (.error k)) :
    exec .procDone s = .fault .selectorMismatch := by
  simp [exec, execProcDone, raised]

theorem step_eq_fault {r : Fault} : step s = .fault r ↔ exec s.operation s = .fault r := by
  unfold step
  cases exec s.operation s <;> simp [finishTick]

variable (s) in
/-- The condition `ok` of the selector is the condition of the operation that it names, so the tick's operation is never
executed against it. -/
theorem exec_operation_ne_selectorMismatch : exec s.operation s ≠ .fault .selectorMismatch := by
  cases op : s.operation with
  | procError =>
    obtain ⟨-, st, -, notOk⟩ := State.operation_eq_procError_iff_ok.1 op
    have noSequence : ¬ ∃ f, s.passResult = some (.sequence f) := by
      rw [← State.ok_eq_true_of_processing st, notOk]
      exact Bool.false_ne_true
    rcases result : s.passResult with _ | (f | k | _)
    · simp [execProcError_of_unread result]
    · exact absurd ⟨f, result⟩ noSequence
    · simp [execProcError_eq_next.2 ⟨k, result, rfl⟩]
    · simp [exec, execProcError, result]
  | procDone =>
    obtain ⟨-, st, -, ok⟩ := State.operation_eq_procDone_iff_ok.1 op
    obtain ⟨f, returned⟩ := (State.ok_eq_true_of_processing st).1 ok
    simp [execProcDone_eq_next.2 ⟨f, returned, rfl⟩]
  | txWord =>
    cases offered : Memory.read s.result s.idx <;> simp [exec, execTxWord, offered]
  | txLast =>
    cases offered : Memory.read s.result s.idx <;> simp [exec, execTxLast, offered]
  | reset | idleAdvance | cfgHold | cfgAccept | rxHold | rxAccept | rxAcceptFill | procWait | txHold | badState101
  | badState11x => exact nofun

/-! ### TX_WORD and TX_LAST on an entry without a value (log entry 8) -/

theorem execTxWord_of_unread (unread : Memory.read s.result s.idx = none) :
    exec .txWord s = .fault (.unwrittenRead .result) := by
  simp [exec, execTxWord, unread]

theorem execTxLast_of_unread (unread : Memory.read s.result s.idx = none) :
    exec .txLast s = .fault (.unwrittenRead .result) := by
  simp [exec, execTxLast, unread]

end

/-! ### The obligations -/

/-- Settles O56. -/
theorem chunkUndoesConcatenation : Obligations.ChunkUndoesConcatenation := by
  intro ws f bits
  have count : (chunk f).length = ws.length := by rw [chunk_length, chunkCount_of_assembled bits]
  refine List.ext_getElem count fun k hk hk' => ?_
  have word : ws[k]? = some ws[k] := List.getElem?_eq_getElem hk'
  rw [← Option.some_inj, ← List.getElem?_eq_getElem hk, chunk_getElem? (chunk_length f ▸ hk),
    chunkWord_of_assembled bits word]

/-- Settles O36. -/
theorem procDoneStoresTheChunkedResult : Obligations.ProcDoneStoresTheChunkedResult := by
  refine fun s => ⟨fun inv => ?selector, fun f returned => ⟨Memory.ofWords (chunk f), ?effect, ?stored, ?beyond⟩,
    fun op => ?outputs⟩
  case selector =>
    have ticks := inv.procTicks_pos
    have last : s.procCnt + 1 = s.params.procTicks ↔ s.procCnt = s.params.procTicks - 1 := by omega
    rw [State.operation_eq_procDone_iff_ok, last]
    exact and_congr_right fun _ => and_congr_right fun st => by rw [State.ok_eq_true_of_processing st]
  case effect => exact execProcDone_eq_next.2 ⟨f, returned, rfl⟩
  case stored =>
    exact fun k hk => ⟨chunkWord f k, by rw [Memory.read_ofWords, chunk_getElem? hk], chunkWord_getLsbD f k⟩
  case beyond =>
    intro k hk
    rw [Memory.read_ofWords, List.getElem?_eq_none (by rwa [chunk_length, chunkCount])]
  case outputs =>
    obtain ⟨-, st, -⟩ := State.operation_eq_procDone_iff_ok.1 op
    obtain ⟨cfgReady, inReady, outValid, -⟩ := State.handshakeOutputs_eq_zero (.inr st)
    exact ⟨cfgReady, inReady, outValid⟩

/-- Settles O37. -/
theorem procOperationsStopOnlyAsNamed : Obligations.ProcOperationsStopOnlyAsNamed := by
  refine fun s => ⟨fun unwritten => ?unread, fun f => execProcError_of_sequence, fun k => execProcDone_of_error,
    fun written => ?answered, fun stops => exec_operation_ne_selectorMismatch s (step_eq_fault.1 stops)⟩
  case unread =>
    have unread := State.passResult_eq_none.2 unwritten
    exact ⟨execProcError_of_unread unread, execProcDone_of_unread unread⟩
  case answered =>
    rcases s.passResult_cases with unread | raised | raised | returned
    · obtain ⟨i, hi, unwritten⟩ := State.passResult_eq_none.1 unread
      exact absurd unwritten (written i hi)
    · exact .inl ⟨_, raised⟩
    · exact .inl ⟨_, raised⟩
    · exact .inr returned

/-- Settles O39: with one word, the offered word is the last. -/
theorem txWordTransfersAndAdvances : Obligations.TxWordTransfersAndAdvances := by
  refine fun s => ⟨State.operation_eq_txWord, fun w read => execTxWord_eq_next.2 ⟨w, read, rfl⟩, execTxWord_of_unread,
    fun op => ?_⟩
  obtain ⟨rst, st, ready, notLast⟩ := State.operation_eq_txWord.1 op
  have offered : s.outValid = true := State.outValid_of_emitting rst st
  refine ⟨by rw [State.outXfer_of_outReady st rst, ready], fun port => ?marker, fun inv => ?words,
    fun w => State.outData_of_read offered⟩
  case marker => rw [State.outLast_of_outValid offered port, beq_false_of_ne notLast]
  case words =>
    obtain ⟨-, ⟨-, -, -, -, below⟩, -⟩ := (State.inv_iff_of_emitting st).1 inv
    omega

/-- Settles O40: the next tick begins in `IDLE`, where nothing is offered. -/
theorem txLastTransfersAndEndsThePass : Obligations.TxLastTransfersAndEndsThePass := by
  refine fun s => ⟨State.operation_eq_txLast,
    fun w read => ⟨[], execTxLast_eq_next.2 ⟨w, read, rfl⟩, Memory.read_nil⟩, execTxLast_of_unread, fun op => ?_⟩
  obtain ⟨rst, st, ready, last⟩ := State.operation_eq_txLast.1 op
  have offered : s.outValid = true := State.outValid_of_emitting rst st
  refine ⟨by rw [State.outXfer_of_outReady st rst, ready], fun port => ?marker, fun w => State.outData_of_read offered,
    fun t next => ?ended⟩
  case marker => rw [State.outLast_of_outValid offered port, last, beq_self_eq_true]
  case ended =>
    obtain ⟨u, run, rfl⟩ := step_eq_next.1 next
    rw [op] at run
    obtain ⟨w, -, rfl⟩ := execTxLast_eq_next.1 run
    exact State.outValid_of_state_ne codeIdle_ne_codeEmitting

end Sys2Proof.Machine

/-! PROOFS. The placing of a selector: the state built for a table word forms a selector of the operation that the word decodes to
(spec/30_encoding.md section 4, log entry 15). -/

namespace Sys2Proof.Machine

open Sys2Proof

/-! ### The operation of a state with the parts of a selector (R80) -/

/-- A selector is put together from the parts at their places. -/
theorem selector_eq_parts : ∀ S : BitVec 9,
    S = BitVec.ofBool (S.getLsbD 8) ++ S.extractLsb' 5 3 ++ BitVec.ofBool (S.getLsbD 4) ++ BitVec.ofBool (S.getLsbD 3)
      ++ BitVec.ofBool (S.getLsbD 2) ++ BitVec.ofBool (S.getLsbD 1) ++ BitVec.ofBool (S.getLsbD 0) := by
  decide

/-- `s` presents the handshake inputs, the state code and, where a row examines them, the conditions of the selector `S`. -/
structure Presents (S : BitVec 9) (s : State) : Prop where
  rst : s.pins.rst = S.getLsbD 8
  state : s.state = S.extractLsb' 5 3
  cfgValid : s.pins.cfgValid = S.getLsbD 4
  inValid : s.pins.inValid = S.getLsbD 3
  outReady : s.pins.outReady = S.getLsbD 2
  final : s.state = codeReceiving ∨ s.state = codeProcessing ∨ s.state = codeEmitting → s.final = S.getLsbD 1
  ok : s.state = codeProcessing → s.ok = S.getLsbD 0

/-- The rows of the operation map examine no bit but those. -/
theorem Presents.operation_eq {S : BitVec 9} {s : State} (h : Presents S s) : s.operation = decodeSelector S := by
  rw [State.operation_eq, selector_eq_parts S, decodeSelector_parts, ← h.rst, ← h.state, ← h.cfgValid, ← h.inValid,
    ← h.outReady]
  by_cases receiving : s.state = codeReceiving
  · rw [← h.final (.inl receiving)]
    simp [receiving]
  by_cases processing : s.state = codeProcessing
  · rw [← h.final (.inr (.inl processing)), ← h.ok processing]
  by_cases emitting : s.state = codeEmitting
  · rw [← h.final (.inr (.inr emitting))]
    simp [emitting]
  simp [receiving, processing, emitting]

/-! ### The condition `final` in each state (R80) -/

theorem State.final_of_receiving {s : State} (st : s.state = codeReceiving) :
    s.final = (s.count + 1 == s.params.maxWords) := if_pos st

theorem State.final_of_processing {s : State} (st : s.state = codeProcessing) :
    s.final = (s.procCnt + 1 == s.params.procTicks) := by
  simp [State.final, st]

theorem State.final_of_emitting {s : State} (st : s.state = codeEmitting) : s.final = (s.idx + 1 == s.nwords) := by
  simp [State.final, State.atLastWord, st]

/-! ### What the placing sets -/

/-- The state with the state code and the inputs of the selector, before the conditions are placed. -/
def State.placeInputs (S : BitVec 9) (s : State) : State := { s with state := S.extractLsb' 5 3 }.placePins S

theorem State.placeSelector_eq (S : BitVec 9) (s : State) :
    s.placeSelector S =
      match (s.placeInputs S).state.toNat with
      | 2 => (s.placeInputs S).placeReceiving (S.getLsbD 1)
      | 3 => (s.placeInputs S).placeProcessing (S.getLsbD 1) (S.getLsbD 0)
      | 4 => (s.placeInputs S).placeEmitting (S.getLsbD 1)
      | _ => s.placeInputs S := rfl

/-- A state with those inputs and that code presents the selector once its conditions are right. -/
theorem Presents.of_placeInputs {S : BitVec 9} {s t u : State} (inputs : s.placeInputs S = t) (pins : u.pins = t.pins)
    (state : u.state = t.state)
    (final : u.state = codeReceiving ∨ u.state = codeProcessing ∨ u.state = codeEmitting → u.final = S.getLsbD 1)
    (ok : u.state = codeProcessing → u.ok = S.getLsbD 0) : Presents S u := by
  subst inputs
  exact ⟨pins ▸ rfl, state, pins ▸ rfl, pins ▸ rfl, pins ▸ rfl, final, ok⟩

section
variable (s : State)

theorem State.placeReceiving_frame (final : Bool) :
    (s.placeReceiving final).pins = s.pins ∧ (s.placeReceiving final).state = s.state := by
  unfold State.placeReceiving
  split_ifs <;> exact ⟨rfl, rfl⟩

theorem State.placeReceiving_final (wf : s.params.wf) (st : s.state = codeReceiving) (final : Bool) :
    (s.placeReceiving final).final = final := by
  obtain ⟨words, -⟩ := wf
  obtain ⟨-, placed⟩ := s.placeReceiving_frame final
  rw [State.final_of_receiving (placed.trans st)]
  unfold State.placeReceiving
  have notOne : 1 ≠ max 2 s.params.maxWords := by omega
  cases final with
  | true => simp [Nat.sub_add_cancel words]
  | false =>
    by_cases last : s.count + 1 = s.params.maxWords
    · simp [last, notOne]
    · simp [last]

theorem State.placeProcessing_final (wf : s.params.wf) (st : s.state = codeProcessing) (final ok : Bool) :
    (s.placeProcessing final ok).final = final := by
  obtain ⟨-, ticks, -⟩ := wf
  rw [State.final_of_processing (s := s.placeProcessing final ok) st]
  have notOne : 1 ≠ max 2 s.params.procTicks := by omega
  cases final with
  | true => simp [State.placeProcessing, Nat.sub_add_cancel ticks]
  | false => simp [State.placeProcessing, notOne]

/-- The placed configuration is refused (`inlen` = 0) or accepted: the full queue of zero words has a bit for `inlen` = 1. -/
theorem State.placeProcessing_ok (wf : s.params.wf) (st : s.state = codeProcessing) (final ok : Bool) :
    (s.placeProcessing final ok).ok = ok := by
  have drained := State.drainBits_of_queue (s := s.placeProcessing final ok)
    (ws := List.replicate s.params.maxWords 0) rfl List.length_replicate.symm
  have evaluated : (s.placeProcessing final ok).passResult = some
      (rateMatch (s.placeProcessing final ok).params.eMode ((List.replicate s.params.maxWords 0).flatMap wordBits)
        (s.placeProcessing final ok).cfg) := by
    rw [State.passResult, drained, Option.map_some]
  have placed : (s.placeProcessing final ok).state = codeProcessing := st
  rw [Bool.eq_iff_iff, State.ok_eq_true_of_processing placed]
  cases ok with
  | false =>
    rw [evaluated, rateMatch_of_inlen_zero _ rfl]
    simp
  | true =>
    have long : 1 ≤ ((List.replicate s.params.maxWords (0 : Word)).flatMap wordBits).length := by
      obtain ⟨words, -⟩ := wf
      rw [flatMap_wordBits_length, List.length_replicate]
      omega
    have noError (k : ErrorKind) : (s.placeProcessing final true).passResult ≠ some (.error k) := by
      rw [evaluated, Ne, Option.some_inj]
      have oneBit : (1 : BitVec 16) ≠ 0 ∧ (1 : BitVec 3).toNat * (1 : BitVec 4).toNat ≠ 0 := by decide
      exact rateMatch_ne_error _ (c := (s.placeProcessing final true).cfg) oneBit.1 long oneBit.2 k
    rcases (s.placeProcessing final true).passResult_cases with unread | raised | raised | returned
    · simp [evaluated] at unread
    · exact absurd raised (noError _)
    · exact absurd raised (noError _)
    · exact iff_of_true returned rfl

theorem State.placeEmitting_final (st : s.state = codeEmitting) (final : Bool) : (s.placeEmitting final).final = final := by
  rw [State.final_of_emitting (s := s.placeEmitting final) st]
  cases final <;> rfl

end

/-- The state built for a selector presents it: the inputs and the state code are set in every state, and the conditions in those
whose rows examine them. -/
theorem State.placeSelector_presents (S : BitVec 9) {s : State} (wf : s.params.wf) : Presents S (s.placeSelector S) := by
  have placed := s.placeSelector_eq S
  have wf : (s.placeInputs S).params.wf := wf
  generalize inputs : s.placeInputs S = t at placed wf
  by_cases receiving : t.state = codeReceiving
  · obtain ⟨pins, state⟩ := t.placeReceiving_frame (S.getLsbD 1)
    rw [show s.placeSelector S = t.placeReceiving (S.getLsbD 1) by rw [placed, receiving]; rfl]
    exact .of_placeInputs inputs pins state (fun _ => t.placeReceiving_final wf receiving _)
      fun processing => absurd (state ▸ processing) (receiving ▸ codeReceiving_ne_codeProcessing)
  by_cases processing : t.state = codeProcessing
  · rw [show s.placeSelector S = t.placeProcessing (S.getLsbD 1) (S.getLsbD 0) by rw [placed, processing]; rfl]
    exact .of_placeInputs inputs rfl rfl (fun _ => t.placeProcessing_final wf processing _ _)
      fun _ => t.placeProcessing_ok wf processing _ _
  by_cases emitting : t.state = codeEmitting
  · rw [show s.placeSelector S = t.placeEmitting (S.getLsbD 1) by rw [placed, emitting]; rfl]
    exact .of_placeInputs inputs rfl rfl (fun _ => t.placeEmitting_final emitting _)
      fun other => absurd other processing
  have unplaced : s.placeSelector S = t := by
    rw [placed]
    split
    next code => exact absurd (BitVec.eq_of_toNat_eq code) receiving
    next code => exact absurd (BitVec.eq_of_toNat_eq code) processing
    next code => exact absurd (BitVec.eq_of_toNat_eq code) emitting
    next => rfl
  rw [unplaced]
  exact .of_placeInputs inputs rfl rfl (fun examined => by simp [receiving, processing, emitting] at examined)
    fun other => absurd other processing

/-! ### The obligation -/

/-- Settles O6. -/
theorem placedSelectorWordIsTheOneExecuted : Obligations.PlacedSelectorWordIsTheOneExecuted := by
  intro s nbits w wf wide small
  have kept : w % 2 ^ nbits = w :=
    Nat.mod_eq_of_lt (Nat.lt_of_lt_of_le small (Nat.pow_le_pow_right (n := 2) (by decide) wide))
  rw [State.withFetchWord, kept, (State.placeSelector_presents _ wf).operation_eq]

end Sys2Proof.Machine

/-! PROOFS. Whole passes: the ticks of one pass phase by phase, and what the consumer has received at the end
(spec/20_memory.md section 5, spec/44_output_chunker.md, spec/70_reset_and_hazards.md). -/

namespace Sys2Proof.Machine

open Sys2Proof

/-! ### Runs -/

/-- `n` completed ticks take the block from one state to another. -/
inductive Reaches : Nat → State → State → Prop where
  | refl (s : State) : Reaches 0 s s
  | head {n : Nat} {s t u : State} (next : step s = .next t) (later : Reaches n t u) : Reaches (n + 1) s u

theorem Reaches.run_eq {n : Nat} {s t : State} (run : Reaches n s t) : Host.Core.run Sys2Proof.core n s = .next t := by
  induction run with
  | refl => rfl
  | head next _ ih =>
    have next : Sys2Proof.core.step _ = .next _ := next
    simpa only [Host.Core.run, next] using ih

theorem Reaches.single {s t : State} (next : step s = .next t) : Reaches 1 s t := .head next (.refl t)

theorem Reaches.trans {m n : Nat} {s t u : State} (first : Reaches m s t) (second : Reaches n t u) :
    Reaches (m + n) s u := by
  induction first with
  | refl => rwa [Nat.zero_add]
  | head next _ ih =>
    rw [Nat.succ_add]
    exact .head next (ih second)

/-- The invariant holds along every run. -/
theorem Reaches.inv {n : Nat} {s t : State} (run : Reaches n s t) (inv : s.Inv) : t.Inv := by
  induction run with
  | refl => exact inv
  | head next _ ih => exact ih (inv.step next)

/-! ### RECEIVING: the data words are queued in order (R127, R128) -/

theorem Memory.ofWordsFrom_append (k : Nat) (ws vs : List Word) :
    Memory.ofWordsFrom k (ws ++ vs) = Memory.ofWordsFrom k ws ++ Memory.ofWordsFrom (k + ws.length) vs := by
  induction ws generalizing k with
  | nil => rfl
  | cons w ws ih =>
    rw [List.cons_append, Memory.ofWordsFrom, ih, Memory.ofWordsFrom, List.cons_append, List.length_cons, Nat.add_assoc,
      Nat.add_comm 1]

/-- A word written at the end of a listed store is added at the end of the list. -/
theorem Memory.write_ofWords (ws : List Word) (w : Word) :
    Memory.write (Memory.ofWords ws) ws.length w = Memory.ofWords (ws ++ [w]) := by
  rw [Memory.write_append _ _ _ (by simp), Memory.ofWords, Memory.ofWords, Memory.ofWordsFrom_append, Nat.zero_add]
  rfl

/-- The state after the last data word of a batch. -/
def State.filled (ws : List Word) (n : Nat) (rest : List Pins) (s : State) : State :=
  { s with queue := Memory.ofWords ws, count := s.params.maxWords, procCnt := 0, state := codeProcessing, script := rest,
           tick := s.tick + n }

/-- The words queued before do not matter once the batch is complete. -/
theorem State.filled_endTick (q : Memory) (c : Nat) (ws : List Word) (n : Nat) (rest : List Pins) (s : State) :
    ({ s with queue := q, count := c : State }.endTick).filled ws n rest = s.filled ws (n + 1) rest := by
  simp [State.filled, State.endTick, Nat.add_assoc, Nat.add_comm 1]

/-- With a data word on every tick, the queue fills in the order of the words, and `PROCESSING` begins. -/
theorem reaches_filled (ds rest : List Pins) {s : State} {ws : List Word} (st : s.state = codeReceiving)
    (queue : s.queue = Memory.ofWords ws) (count : s.count = ws.length)
    (capacity : s.count + ds.length = s.params.maxWords) (nonempty : ds ≠ []) (script : s.script = ds ++ rest)
    (offered : ∀ p ∈ ds, p.rst = false ∧ p.inValid = true) :
    Reaches ds.length s (s.filled (ws ++ ds.map Pins.inData) ds.length rest) := by
  induction ds generalizing s ws with
  | nil => exact absurd rfl nonempty
  | cons p ds ih =>
    have pins : s.pins = p := State.pins_of_script script
    obtain ⟨⟨rst, valid⟩, offered⟩ := List.forall_mem_cons.1 offered
    rw [← pins] at rst valid
    have written : Memory.write s.queue s.count s.pins.inData = Memory.ofWords (ws ++ [p.inData]) := by
      rw [queue, count, Memory.write_ofWords, pins]
    rw [List.length_cons] at capacity
    cases ds with
    | nil =>
      have last : s.count + 1 = s.params.maxWords := capacity
      have next := step_of_exec (State.operation_eq_rxAcceptFill.2 ⟨rst, st, valid, last⟩) (exec_rxAcceptFill s)
      rw [written] at next
      simpa [State.filled, State.endTick, script] using Reaches.single next
    | cons q ds =>
      have room : s.count < s.params.maxWords := by omega
      have notLast : s.count + 1 ≠ s.params.maxWords := by simp at capacity; omega
      have next := step_of_exec (State.operation_eq_rxAccept.2 ⟨rst, st, valid, notLast⟩) (exec_rxAccept s)
      rw [State.offer_of_room _ room, written] at next
      have later := ih (s := { s with queue := Memory.ofWords (ws ++ [p.inData]), count := s.count + 1 : State }.endTick)
        (ws := ws ++ [p.inData]) st rfl (by simp [count]) (by simp at capacity ⊢; omega) (by simp) (by simp [script]) offered
      rw [State.filled_endTick, List.append_assoc] at later
      exact .head next later

/-! ### PROCESSING: the ticks before the last, and the last (R210, R211, R212) -/

/-- The state after `n` ticks of waiting. -/
def State.waited (n : Nat) (rest : List Pins) (s : State) : State :=
  { s with procCnt := s.procCnt + n, script := rest, tick := s.tick + n }

theorem State.waited_endTick (n : Nat) (rest : List Pins) (s : State) :
    ({ s with procCnt := s.procCnt + 1 : State }.endTick).waited n rest = s.waited (n + 1) rest := by
  simp [State.waited, State.endTick, Nat.add_assoc, Nat.add_comm 1]

theorem reaches_waited (ps rest : List Pins) {s : State} (st : s.state = codeProcessing)
    (before : s.procCnt + ps.length < s.params.procTicks) (script : s.script = ps ++ rest)
    (noRst : ∀ p ∈ ps, p.rst = false) : Reaches ps.length s (s.waited ps.length rest) := by
  induction ps generalizing s with
  | nil =>
    have same : s.waited 0 rest = s := by rw [State.waited, ← List.nil_append rest, ← script]; rfl
    rw [List.length_nil, same]
    exact .refl s
  | cons p ps ih =>
    obtain ⟨rst, noRst⟩ := List.forall_mem_cons.1 noRst
    rw [← State.pins_of_script script] at rst
    rw [List.length_cons] at before
    have notLast : s.procCnt + 1 ≠ s.params.procTicks := by omega
    have next := step_of_exec (State.operation_eq_procWait.2 ⟨rst, st, notLast⟩) (exec_procWait s)
    have later := ih (s := { s with procCnt := s.procCnt + 1 : State }.endTick) st (by simp; omega)
      (by simp [script]) noRst
    rw [State.waited_endTick] at later
    exact .head next later

/-- The state after the last processing tick, `u` being what its operation leaves. -/
def State.finished (u : State) (n : Nat) (rest : List Pins) : State := { u with script := rest, tick := u.tick + n }

/-- The last tick is reached by waiting, in a state that differs from the first in `proc_cnt` and the model's own fields. -/
theorem reaches_last_processing_tick {ps rest : List Pins} {s : State} (st : s.state = codeProcessing)
    (ticks : s.procCnt + ps.length = s.params.procTicks) (nonempty : ps ≠ []) (script : s.script = ps ++ rest)
    (noRst : ∀ p ∈ ps, p.rst = false) :
    ∃ n p, n + 1 = ps.length ∧ p.rst = false ∧ s.procCnt + n + 1 = s.params.procTicks ∧
      Reaches n s (s.waited n (p :: rest)) := by
  obtain ⟨init, p, rfl⟩ := (List.eq_nil_or_concat ps).resolve_left nonempty
  simp only [List.concat_eq_append, List.length_append, List.length_singleton, List.mem_append, List.mem_singleton] at *
  refine ⟨init.length, p, rfl, noRst p (.inr rfl), by omega, ?_⟩
  exact reaches_waited init (p :: rest) st (by omega) (by simp [script]) fun q hq => noRst q (.inl hq)

section
variable {ps rest : List Pins} {s : State} (st : s.state = codeProcessing)
  (ticks : s.procCnt + ps.length = s.params.procTicks) (nonempty : ps ≠ []) (script : s.script = ps ++ rest)
  (noRst : ∀ p ∈ ps, p.rst = false)
include st ticks nonempty script noRst

theorem reaches_takeError {k : ErrorKind} (raised : s.passResult = some (.error k)) :
    Reaches ps.length s ((s.takeError k).finished ps.length rest) := by
  obtain ⟨n, p, length, rst, last, run⟩ := reaches_last_processing_tick st ticks nonempty script noRst
  have notOk : (s.waited n (p :: rest)).ok = false := by
    have evaluated : (s.waited n (p :: rest)).passResult = some (.error k) := raised
    rw [← Bool.not_eq_true, State.ok_eq_true_of_processing (by exact st), evaluated]
    simp
  have op : (s.waited n (p :: rest)).operation = .procError :=
    State.operation_eq_procError_iff_ok.2 ⟨rst, st, last, notOk⟩
  have next := step_of_exec op (execProcError_eq_next.2 ⟨k, raised, rfl⟩)
  rw [← length]
  exact run.trans (.single next)

theorem reaches_storeResult {f : List Bool} (returned : s.passResult = some (.sequence f)) :
    Reaches ps.length s ((s.storeResult f).finished ps.length rest) := by
  obtain ⟨n, p, length, rst, last, run⟩ := reaches_last_processing_tick st ticks nonempty script noRst
  have ok : (s.waited n (p :: rest)).ok = true := (State.ok_eq_true_of_processing (by exact st)).2 ⟨f, returned⟩
  have op : (s.waited n (p :: rest)).operation = .procDone :=
    State.operation_eq_procDone_iff_ok.2 ⟨rst, st, last, ok⟩
  have next := step_of_exec op (execProcDone_eq_next.2 ⟨f, returned, rfl⟩)
  rw [← length]
  exact run.trans (.single next)

end

/-! ### EMITTING: the words leave in index order (R185, R186, R187) -/

/-- The emission of word `k`: the end marker says whether it is the last (R183). -/
theorem marked_getElem? (p : Params) (ws : List Word) (k : Nat) :
    (marked p ws)[k]? =
      ws[k]?.map fun w => { data := w, last := if p.hasOutLast then some (k + 1 == ws.length) else none } := by
  rw [marked, List.getElem?_mapIdx]

@[simp] theorem marked_length (p : Params) (ws : List Word) : (marked p ws).length = ws.length := by simp [marked]

/-- The emission of a tick that transfers word `idx` is that of the word in the list of the pass. -/
theorem State.marked_of_offered {s : State} {ws : List Word} {w : Word} (offered : s.outValid = true)
    (words : s.nwords = ws.length) (word : ws[s.idx]? = some w) :
    (marked s.params ws)[s.idx]? = some { data := w, last := s.outLast } := by
  rw [marked_getElem?, word, Option.map_some, State.outLast, offered, Bool.true_and, State.atLastWord, words]

theorem take_drop_succ {α : Type} {l : List α} {i : Nat} {x : α} (entry : l[i]? = some x) (n : Nat) :
    (l.drop i).take (n + 1) = x :: (l.drop (i + 1)).take n := by
  obtain ⟨hi, rfl⟩ := List.getElem?_eq_some_iff.1 entry
  rw [List.drop_eq_getElem_cons hi, List.take_succ_cons]

theorem take_append_last {α : Type} {l : List α} {n : Nat} {x : α} (entry : l[n]? = some x) (last : n + 1 = l.length) :
    l.take n ++ [x] = l := by
  obtain ⟨hn, rfl⟩ := List.getElem?_eq_some_iff.1 entry
  rw [List.take_concat_get', last, List.take_length]

/-- The state after `n` ticks on which the emissions `es` were made. -/
def State.emitted (es : List Emission) (n : Nat) (rest : List Pins) (s : State) : State :=
  { s with idx := s.idx + es.length, sent := s.sent ++ es, script := rest, tick := s.tick + n }

theorem State.emitted_endTick (es : List Emission) (n : Nat) (rest : List Pins) (s : State) :
    s.endTick.emitted es n rest = s.emitted es (n + 1) rest := by
  simp [State.emitted, State.endTick, Nat.add_assoc, Nat.add_comm 1]

theorem State.emitted_cons (w : Word) (es : List Emission) (n : Nat) (rest : List Pins) (s : State) :
    ({ s.emit w with idx := s.idx + 1 : State }.endTick).emitted es n rest =
      s.emitted ({ data := w, last := s.outLast } :: es) (n + 1) rest := by
  simp [State.emitted, State.endTick, State.emit, Nat.add_assoc, Nat.add_comm 1]

/-- The emissions of `n` ready ticks from word `idx` on. -/
def State.nextEmissions (ws : List Word) (n : Nat) (s : State) : List Emission := ((marked s.params ws).drop s.idx).take n

/-- One word leaves on every ready tick, as long as the last word is not reached. -/
theorem reaches_emitted (es rest : List Pins) {s : State} {ws : List Word} (st : s.state = codeEmitting)
    (result : s.result = Memory.ofWords ws) (words : s.nwords = ws.length)
    (before : s.idx + es.countP Pins.outReady < s.nwords) (script : s.script = es ++ rest)
    (noRst : ∀ p ∈ es, p.rst = false) :
    Reaches es.length s (s.emitted (s.nextEmissions ws (es.countP Pins.outReady)) es.length rest) := by
  induction es generalizing s with
  | nil =>
    have same : s.emitted [] 0 rest = s := by
      rw [State.emitted, ← List.nil_append rest, ← script, List.append_nil]
      rfl
    rw [List.countP_nil, List.length_nil, State.nextEmissions, List.take_zero, same]
    exact .refl s
  | cons p es ih =>
    obtain ⟨rst, noRst⟩ := List.forall_mem_cons.1 noRst
    have pins : s.pins = p := State.pins_of_script script
    rw [← pins] at rst
    by_cases ready : p.outReady = true
    · rw [List.countP_cons_of_pos ready] at before ⊢
      have below : s.idx < ws.length := by omega
      have notLast : s.idx + 1 ≠ s.nwords := by omega
      have word : ws[s.idx]? = some ws[s.idx] := List.getElem?_eq_getElem below
      have read : Memory.read s.result s.idx = some ws[s.idx] := by rw [result, Memory.read_ofWords, word]
      have next := step_of_exec (State.operation_eq_txWord.2 ⟨rst, st, pins ▸ ready, notLast⟩)
        (execTxWord_eq_next.2 ⟨_, read, rfl⟩)
      have later := ih (s := { s.emit ws[s.idx] with idx := s.idx + 1 : State }.endTick) st result words
        (by simp; omega) (by simp [script]) noRst
      have emission := State.marked_of_offered (State.outValid_of_emitting rst st) words word
      rw [State.emitted_cons] at later
      rw [State.nextEmissions, take_drop_succ emission]
      exact .head next later
    · rw [List.countP_cons_of_neg ready] at before ⊢
      rw [Bool.not_eq_true] at ready
      have next := step_of_exec (State.operation_eq_txHold.2 ⟨rst, st, pins ▸ ready⟩) (exec_txHold s)
      have later := ih (s := s.endTick) st result words before (by simp [script]) noRst
      rw [State.emitted_endTick] at later
      exact .head next later

/-- The tick of the last word ends the pass (R187). -/
theorem exists_step_at_last_word {s : State} {ws : List Word} (rst : s.pins.rst = false) (st : s.state = codeEmitting)
    (ready : s.pins.outReady = true) (last : s.idx + 1 = s.nwords) (result : s.result = Memory.ofWords ws)
    (words : s.nwords = ws.length) :
    ∃ t e, step s = .next t ∧ t.state = codeIdle ∧ t.err = s.err ∧ t.script = s.script.tail ∧
      t.sent = s.sent ++ [e] ∧ (marked s.params ws)[s.idx]? = some e := by
  have below : s.idx < ws.length := by omega
  have word : ws[s.idx]? = some ws[s.idx] := List.getElem?_eq_getElem below
  have read : Memory.read s.result s.idx = some ws[s.idx] := by rw [result, Memory.read_ofWords, word]
  exact ⟨_, _, step_of_exec (State.operation_eq_txLast.2 ⟨rst, st, ready, last⟩) (execTxLast_eq_next.2 ⟨_, read, rfl⟩),
    rfl, rfl, rfl, rfl, State.marked_of_offered (State.outValid_of_emitting rst st) words word⟩

/-- With the consumer ready on every tick, every word of the result leaves, the last one ends the pass, and nothing is left. -/
theorem exists_reaches_end_of_emission {es rest : List Pins} {s : State} {ws : List Word} (st : s.state = codeEmitting)
    (result : s.result = Memory.ofWords ws) (words : s.nwords = ws.length) (idx : s.idx = 0) (count : es.length = ws.length)
    (nonempty : es ≠ []) (script : s.script = es ++ rest) (ready : ∀ p ∈ es, p.rst = false ∧ p.outReady = true) :
    ∃ t, Reaches es.length s t ∧ t.state = codeIdle ∧ t.err = s.err ∧ t.sent = s.sent ++ marked s.params ws ∧
      t.script = rest := by
  obtain ⟨init, p, rfl⟩ := (List.eq_nil_or_concat es).resolve_left nonempty
  simp only [List.concat_eq_append, List.length_append, List.length_singleton, List.append_assoc, List.singleton_append,
    List.forall_mem_append, List.forall_mem_singleton] at *
  obtain ⟨ready, rst, lastReady⟩ := ready
  have allReady : init.countP Pins.outReady = init.length := List.countP_eq_length.2 fun q hq => (ready q hq).2
  have run := reaches_emitted init (p :: rest) st result words (by omega) script fun q hq => (ready q hq).1
  rw [allReady, State.nextEmissions, idx, List.drop_zero] at run
  have atLast : s.idx + ((marked s.params ws).take init.length).length = init.length := by
    rw [List.length_take_of_le (by rw [marked_length]; omega), idx, Nat.zero_add]
  have last : s.idx + ((marked s.params ws).take init.length).length + 1 = s.nwords := by omega
  obtain ⟨t, e, next, state, err, left, sent, emission⟩ :=
    exists_step_at_last_word (s := s.emitted ((marked s.params ws).take init.length) init.length (p :: rest)) rst st lastReady
      last result words
  replace emission : (marked s.params ws)[init.length]? = some e := atLast ▸ emission
  refine ⟨t, run.trans (.single next), state, err, ?_, left⟩
  rw [sent, State.emitted, List.append_assoc, take_append_last emission (by rw [marked_length, count])]

/-! ### The passes -/

/-- Up to `PROCESSING` every pass is the same: the configuration is taken, and the batch is queued for RateMatch. -/
theorem exists_reaches_processing {s : State} {pc : Pins} {ds rest : List Pins} (inv : s.Inv) (st : s.state = codeAwaitCfg)
    (script : s.script = pc :: (ds ++ rest)) (rst : pc.rst = false) (valid : pc.cfgValid = true)
    (length : ds.length = s.params.maxWords) (offered : ∀ p ∈ ds, p.rst = false ∧ p.inValid = true) :
    ∃ t, Reaches (1 + s.params.maxWords) s t ∧ t.state = codeProcessing ∧ t.procCnt = 0 ∧ t.params = s.params ∧
      t.err = 0 ∧ t.sent = s.sent ∧ t.script = rest ∧
      t.passResult =
        some (rateMatch s.params.eMode (assembled (ds.map Pins.inData)) (decodeConfig pc.cfgData)) := by
  obtain ⟨⟨capacity, -⟩, ⟨count, -⟩, ⟨queue, -⟩, -⟩ := (State.inv_iff_of_awaitCfg st).1 inv
  have pins : s.pins = pc := State.pins_of_script script
  have accepted := step_of_cfgAccept (pins ▸ rst) st (pins ▸ valid)
  rw [pins] at accepted
  have emptyQueue : s.queue = Memory.ofWords [] := Memory.eq_nil_of_keys queue count
  have nonempty : ds ≠ [] := List.ne_nil_of_length_pos (by omega)
  have filled := reaches_filled ds rest
    (s := { s with cfg := decodeConfig pc.cfgData, err := errNone, state := codeReceiving : State }.endTick) rfl emptyQueue
    count (by simp [count, length]) nonempty (by simp [script]) offered
  rw [length] at filled
  refine ⟨_, (Reaches.single accepted).trans filled, rfl, rfl, rfl, rfl, rfl, rfl, ?_⟩
  rw [State.passResult, State.drainBits_of_queue (ws := ds.map Pins.inData) rfl (by simp [State.filled, length])]
  rfl

/-! ### The obligations -/

/-- Settles O58. -/
theorem failedPassDeliversNothing : Obligations.FailedPassDeliversNothing := by
  intro s pc ds ps rest k inv st script rst valid words offered ticks noRst raised
  rw [List.append_assoc] at script
  obtain ⟨t, begun, processing, procCnt, params, -, sent, left, evaluated⟩ :=
    exists_reaches_processing inv st script rst valid words offered
  have pos := inv.procTicks_pos
  have ended := reaches_takeError processing (by rw [procCnt, params, ticks, Nat.zero_add])
    (List.ne_nil_of_length_pos (ticks ▸ pos)) left noRst (evaluated.trans (congrArg some raised))
  rw [ticks] at ended
  have run := begun.trans ended
  exact ⟨_, run.run_eq, rfl, rfl, sent, rfl, run.inv inv⟩

/-- Settles O57: on the empty sequence the pass ends with PROC_DONE, otherwise with the last word. -/
theorem successfulPassDeliversTheRateMatchedBatch : Obligations.SuccessfulPassDeliversTheRateMatchedBatch := by
  intro s pc ds ps es rest f inv st script rst valid words offered ticks noRst returned emissions ready
  rw [List.append_assoc, List.append_assoc] at script
  obtain ⟨t, begun, processing, procCnt, params, err, sent, left, evaluated⟩ :=
    exists_reaches_processing inv st script rst valid words offered
  have pos := inv.procTicks_pos
  have stored := reaches_storeResult processing (by rw [procCnt, params, ticks, Nat.zero_add])
    (List.ne_nil_of_length_pos (ticks ▸ pos)) left noRst (evaluated.trans (congrArg some returned))
  rw [ticks] at stored
  have run := begun.trans stored
  by_cases noWord : chunkCount f.length = 0
  · have state : (t.storeResult f).state = codeIdle := if_pos noWord
    have nothing : marked s.params (chunk f) = [] :=
      List.eq_nil_of_length_eq_zero (by rw [marked_length, chunk_length, noWord])
    obtain rfl : es = [] := List.eq_nil_of_length_eq_zero (emissions.trans noWord)
    rw [← emissions, List.length_nil, Nat.add_zero]
    rw [nothing, List.append_nil]
    exact ⟨_, run.run_eq, state, err, sent, rfl, run.inv inv⟩
  · have state : (t.storeResult f).state = codeEmitting := if_neg noWord
    have nonempty : es ≠ [] := List.ne_nil_of_length_pos (emissions ▸ Nat.pos_of_ne_zero noWord)
    obtain ⟨u, emitted, idle, err', received, left'⟩ := exists_reaches_end_of_emission (ws := chunk f)
      (s := (t.storeResult f).finished s.params.procTicks (es ++ rest)) (es := es) (rest := rest) state rfl
      (chunk_length f).symm rfl (emissions.trans (chunk_length f).symm) nonempty rfl ready
    rw [← emissions]
    have received : u.sent = t.sent ++ marked t.params (chunk f) := received
    have run := run.trans emitted
    exact ⟨u, run.run_eq, idle, err'.trans err, by rw [received, sent, params], left', run.inv inv⟩

/-- Settles O59. -/
theorem emissionFollowsTheReadyTicks : Obligations.EmissionFollowsTheReadyTicks := by
  intro s es rest ws inv st script noRst result before
  obtain ⟨-, -, ⟨-, keys⟩, -⟩ := (State.inv_iff_of_emitting st).1 inv
  have words : s.nwords = ws.length := by
    simpa [result] using (congrArg List.length keys).symm
  have run := reaches_emitted es rest st result words before script noRst
  have available : (s.nextEmissions ws (es.countP Pins.outReady)).length = es.countP Pins.outReady := by
    rw [State.nextEmissions, List.length_take_of_le (by rw [List.length_drop, marked_length]; omega)]
  exact ⟨_, run.run_eq, st, congrArg (s.idx + ·) available, rfl, rfl, rfl⟩

end Sys2Proof.Machine
